-- ==== Sys2Proof/Word.lean ====
section
/-! DEFINITION. The bit vectors of the machine (00_scope.md rules R5, R6). -/

namespace Sys2Proof

/-- A byte of code or of data memory (20_memory.md rule R40). -/
abbrev Byte := BitVec 8

/-- An ordinary immediate or offset operand, `IMMW = 32` bits (00_scope.md rule R5, 30_encoding.md rule R62). -/
abbrev Imm32 := BitVec 32

/-- The 64-bit immediate of format `reg_imm64` (30_encoding.md rule R62). -/
abbrev Imm64 := BitVec 64

/-- The cell a register is kept in: wide enough for both modes (10_state.md rule R21). -/
abbrev Word := BitVec 64

end Sys2Proof
end

