-- ==== Sys2Proof/Syntax.lean ====
section
/-! DEFINITION. The abstract instructions: registers, the 14 operand formats and the 95 instructions
(10_state.md rule R20, 30_encoding.md rules R61, R62, R75). -/

namespace Sys2Proof

/-- The 13 general-purpose registers, in number order 0 to 12 (10_state.md rule R20). -/
inductive Reg
  | ra | sp | t0 | t1 | t2 | s0 | s1 | a0 | a1 | a2 | a3 | a4 | a5
  deriving DecidableEq, Repr

/-- The 14 operand formats, in the source's order (30_encoding.md rule R61). Four of them are used by no
instruction: `regImmImm`, `regRegReg`, `immImm`, `regRegImmImm`. -/
inductive Format
  | argless | reg | regImm | regImmOffset | regImmImm | regReg | regRegImm | regRegOffset | regRegReg
  | offset | imm | immImm | regRegImmImm | regImm64
  deriving DecidableEq, Repr

/-- The operands of an instruction in syntax order, one constructor per format (30_encoding.md rule R61). -/
inductive Operands
  | argless
  | reg (r : Reg)
  | regImm (r : Reg) (imm : Imm32)
  | regImmOffset (r : Reg) (imm off : Imm32)
  | regImmImm (r : Reg) (imm1 imm2 : Imm32)
  | regReg (r1 r2 : Reg)
  | regRegImm (r1 r2 : Reg) (imm : Imm32)
  | regRegOffset (r1 r2 : Reg) (off : Imm32)
  | regRegReg (r1 r2 r3 : Reg)
  | offset (off : Imm32)
  | imm (imm : Imm32)
  | immImm (imm1 imm2 : Imm32)
  | regRegImmImm (r1 r2 : Reg) (imm1 imm2 : Imm32)
  | regImm64 (r : Reg) (imm : Imm64)
  deriving DecidableEq, Repr

/-- The 95 instructions, one constructor per row of the opcode map, operands in the source's syntax order
(30_encoding.md rule R75). The offset of a `reg_imm_offset` instruction is kept, under the name `unused`, so
that no bit of an encoding is lost, and no meaning reads it (rule R79). -/
inductive Instr
  | trap
  | ecalli (imm : Imm32)
  | loadImmU8 (reg : Reg) (imm : Imm32)
  | loadImmU16 (reg : Reg) (imm : Imm32)
  | loadImmU32 (reg : Reg) (imm : Imm32)
  | loadImmU64 (reg : Reg) (imm : Imm64)
  | loadImmS32 (reg : Reg) (imm : Imm32)
  | storeImmU8 (imm : Imm32)
  | storeImmU16 (imm : Imm32)
  | storeImmU32 (imm : Imm32)
  | storeImmU64 (imm : Imm32)
  | jump (offset : Imm32)
  | load8 (dest base : Reg) (offset : Imm32)
  | load8Signed (dest base : Reg) (offset : Imm32)
  | load16 (dest base : Reg) (offset : Imm32)
  | load16Signed (dest base : Reg) (offset : Imm32)
  | load32 (dest base : Reg) (offset : Imm32)
  | load32Signed (dest base : Reg) (offset : Imm32)
  | load64 (dest base : Reg) (offset : Imm32)
  | store8 (src base : Reg) (offset : Imm32)
  | store16 (src base : Reg) (offset : Imm32)
  | store32 (src base : Reg) (offset : Imm32)
  | store64 (src base : Reg) (offset : Imm32)
  | moveReg (dest src : Reg)
  | countLeadingZeroBits32 (reg : Reg)
  | countLeadingZeroBits64 (reg : Reg)
  | countTrailingZeroBits32 (reg : Reg)
  | countTrailingZeroBits64 (reg : Reg)
  | countOnes (reg : Reg)
  | swapBytes (reg : Reg)
  | memcpy (src dest : Reg)
  | memset
  | setLessThanUnsignedImm (reg : Reg) (imm unused : Imm32)
  | setGreaterThanSignedImm (reg : Reg) (imm unused : Imm32)
  | shiftLogicalLeftImmAlt32 (reg : Reg) (shift unused : Imm32)
  | shiftLogicalRightImmAlt32 (reg : Reg) (shift unused : Imm32)
  | shiftArithmeticRightImmAlt32 (reg : Reg) (shift unused : Imm32)
  | cmovIfZeroImm (reg : Reg) (value unused : Imm32)
  | cmovIfNotZeroImm (reg : Reg) (value unused : Imm32)
  | unlikely
  | fallthrough
  | shiftLogicalLeftImmAlt64 (reg : Reg) (shift unused : Imm32)
  | shiftLogicalRightImmAlt64 (reg : Reg) (shift unused : Imm32)
  | shiftArithmeticRightImmAlt64 (reg : Reg) (shift unused : Imm32)
  | rotateRightImm64 (reg : Reg) (shift unused : Imm32)
  | rotateRightImmAlt64 (reg : Reg) (shift unused : Imm32)
  | rotateRightImm32 (reg : Reg) (shift unused : Imm32)
  | rotateRightImmAlt32 (reg : Reg) (shift unused : Imm32)
  | branchEq (reg1 reg2 : Reg) (offset : Imm32)
  | branchNotEq (reg1 reg2 : Reg) (offset : Imm32)
  | branchLessUnsigned (reg1 reg2 : Reg) (offset : Imm32)
  | branchLessSigned (reg1 reg2 : Reg) (offset : Imm32)
  | branchGreaterOrEqualUnsigned (reg1 reg2 : Reg) (offset : Imm32)
  | branchGreaterOrEqualSigned (reg1 reg2 : Reg) (offset : Imm32)
  | add32 (dest src : Reg) (imm : Imm32)
  | sub32 (dest src : Reg) (imm : Imm32)
  | mul32 (dest src : Reg) (imm : Imm32)
  | divUnsigned32 (dest src : Reg)
  | divSigned32 (dest src : Reg)
  | remUnsigned32 (dest src : Reg)
  | remSigned32 (dest src : Reg)
  | shiftLogicalLeft32 (dest count : Reg)
  | shiftLogicalRight32 (dest count : Reg)
  | shiftArithmeticRight32 (dest count : Reg)
  | add64 (dest src : Reg) (imm : Imm32)
  | sub64 (dest src : Reg) (imm : Imm32)
  | mul64 (dest src : Reg) (imm : Imm32)
  | divUnsigned64 (dest src : Reg)
  | divSigned64 (dest src : Reg)
  | remUnsigned64 (dest src : Reg)
  | remSigned64 (dest src : Reg)
  | shiftLogicalLeft64 (dest count : Reg)
  | shiftLogicalRight64 (dest count : Reg)
  | shiftArithmeticRight64 (dest count : Reg)
  | bitwiseAnd (dest src : Reg) (imm : Imm32)
  | bitwiseXor (dest src : Reg) (imm : Imm32)
  | bitwiseOr (dest src : Reg) (imm : Imm32)
  | mulUpperSignedSigned (dest src : Reg)
  | mulUpperUnsignedUnsigned (dest src : Reg)
  | mulUpperSignedUnsigned (dest src : Reg)
  | setLessThanUnsigned (dest src : Reg) (imm : Imm32)
  | setLessThanSigned (dest src : Reg) (imm : Imm32)
  | cmovIfZero (dest src : Reg) (value : Imm32)
  | cmovIfNotZero (dest src : Reg) (value : Imm32)
  | rotateLeft64 (dest count : Reg)
  | rotateLeft32 (dest count : Reg)
  | rotateRight64 (dest count : Reg)
  | rotateRight32 (dest count : Reg)
  | andInverted (dest src : Reg) (imm : Imm32)
  | orInverted (dest src : Reg) (imm : Imm32)
  | xnor (dest src : Reg) (imm : Imm32)
  | maximum (dest src : Reg) (imm : Imm32)
  | maximumUnsigned (dest src : Reg) (imm : Imm32)
  | minimum (dest src : Reg) (imm : Imm32)
  | minimumUnsigned (dest src : Reg) (imm : Imm32)
  deriving DecidableEq, Repr

end Sys2Proof
end

