-- ==== Sys2Proof/Config.lean ====
section
/-! DEFINITION. The launch parameters of the machine (00_scope.md rule R5) as plain data, and the free values of
the model (the oracle `Config.host` stands in Machine/State.lean, behind the types it speaks of). A parameter is fixed
for a run: no step changes it (10_state.md rule R32). -/

namespace Sys2Proof

/-- The mode, which is the width `XLEN` (00_scope.md rule R5, decision D2). -/
inductive Mode
  | x32 | x64
  deriving DecidableEq, Repr

/-- `XLEN` in bits. -/
def Mode.width : Mode → Nat
  | .x32 => 32
  | .x64 => 64

/-- The parameter `ext32`: how a 32-bit result fills a 64-bit register (00_scope.md rules R5, R7, decision D3). -/
inductive Ext32
  | sext | zext
  deriving DecidableEq, Repr

/-- The parameter `StoreImmAddr`: the address used by `store_imm_*` (00_scope.md rule R5, decision D16). `a0` is
the spec's choice; `a0PlusImm` is the other sentence of the source, kept as the parameter's other value
(90_conflicts.md C2, assumption log 5). -/
inductive StoreImmAddr
  | a0 | a0PlusImm
  deriving DecidableEq, Repr

/-- One line of a codec given as a table: at the code offset `offset` stands `instr`, `len` bytes long. -/
structure CodecEntry where
  offset : Nat
  instr : Instr
  len : Nat
  deriving DecidableEq, Repr

/-- The parameter `Codec`: what stands at a code offset, an instruction and its length, or nothing valid (00_scope.md
rule R5, 30_encoding.md rule R67, 93_implementation_defined.md U1). `reference` is the default, the byte layout of
30_encoding.md rules R63 to R65 (decision D8); `table` is any other codec, given by what it answers on the program's
code, which is fixed for a run: the first line for an offset, and invalid where there is no line (assumption log 1). -/
inductive Codec
  | reference
  | table (entries : List CodecEntry)
  deriving DecidableEq, Repr

/-- What an address may be used for (20_memory.md rule R42). -/
inductive Access
  | none | ro | rw
  deriving DecidableEq, Repr

/-- A run of `size` addresses from `base` upward with one permission. The function `Access` of 20_memory.md rule
R42 is held as a list of regions (assumption log 10). -/
structure Region where
  base : Nat
  size : Nat
  access : Access
  deriving DecidableEq, Repr

/-- The parameters the host fixes at launch (00_scope.md rule R5, 60_exceptions.md rule R312). -/
structure Params where
  /-- `XLEN`. -/
  mode : Mode
  /-- `ext32`. -/
  ext32 : Ext32
  /-- `RemTrapsLikeDiv`. -/
  remTrapsLikeDiv : Bool
  /-- `StoreImmAddr`. -/
  storeImmAddr : StoreImmAddr
  /-- `AltSwapsOperands` (93_implementation_defined.md U12). -/
  altSwapsOperands : Bool
  /-- `Codec`. -/
  codec : Codec
  /-- `Code`; its length is `CodeLen`. -/
  code : List Byte
  /-- `JumpTable`, index 0 first; its length is `JTLen`. -/
  jumpTable : List Nat
  /-- `Access`, first region that holds the address, and `none` outside all of them. -/
  access : List Region
  deriving DecidableEq, Repr

/-- The n-th free byte: a byte whose value 49_special.md rule R262 leaves unspecified (`memcpy` of overlapping
blocks, 93_implementation_defined.md U5). It has no body, so a proof can rest on no value of it
(assumption log 12). -/
opaque Config.freeByte : Nat → Byte

end Sys2Proof
end

