-- ==== Sys2Proof/Decode.lean ====
section
/-! DEFINITION. The reference codec (30_encoding.md rules R63 to R67, decision D8): a decoder that is total on any
bytes and rejects by name, the encoder written from the same tables, and the helpers they share. -/

namespace Sys2Proof

/-- Why `Codec` answers `invalid` (30_encoding.md rule R67). -/
inductive DecodeError
  /-- No byte is left in the code. -/
  | noByte
  /-- The first byte is none of the 95 opcode numbers (rule R77). -/
  | unassignedOpcode (opcode : Nat)
  /-- Fewer bytes remain than the format's length (rule R67). -/
  | truncated
  /-- A register field holds 13, 14 or 15 (rule R81). -/
  | badRegister (field : Nat)
  /-- The high nibble of a one-register byte is not zero (rules R64, R81). -/
  | badHighNibble
  deriving DecidableEq, Repr

/-- The register that a number names; 13 and above name none (10_state.md rule R20). -/
def regOfNum : Nat → Option Reg
  | 0 => some .ra
  | 1 => some .sp
  | 2 => some .t0
  | 3 => some .t1
  | 4 => some .t2
  | 5 => some .s0
  | 6 => some .s1
  | 7 => some .a0
  | 8 => some .a1
  | 9 => some .a2
  | 10 => some .a3
  | 11 => some .a4
  | 12 => some .a5
  | _ => none

/-- The number of a register (10_state.md rule R20). -/
def regNum : Reg → Nat
  | .ra => 0
  | .sp => 1
  | .t0 => 2
  | .t1 => 3
  | .t2 => 4
  | .s0 => 5
  | .s1 => 6
  | .a0 => 7
  | .a1 => 8
  | .a2 => 9
  | .a3 => 10
  | .a4 => 11
  | .a5 => 12

/-- The length in bytes of an instruction of a format (30_encoding.md rule R65). -/
def formatLength : Format → Nat
  | .argless => 1
  | .reg => 2
  | .regImm => 6
  | .regImmOffset => 10
  | .regImmImm => 10
  | .regReg => 2
  | .regRegImm => 6
  | .regRegOffset => 6
  | .regRegReg => 3
  | .offset => 5
  | .imm => 5
  | .immImm => 9
  | .regRegImmImm => 10
  | .regImm64 => 10

/-- The format of an operand list. -/
def operandsFormat : Operands → Format
  | .argless => .argless
  | .reg _ => .reg
  | .regImm _ _ => .regImm
  | .regImmOffset _ _ _ => .regImmOffset
  | .regImmImm _ _ _ => .regImmImm
  | .regReg _ _ => .regReg
  | .regRegImm _ _ _ => .regRegImm
  | .regRegOffset _ _ _ => .regRegOffset
  | .regRegReg _ _ _ => .regRegReg
  | .offset _ => .offset
  | .imm _ => .imm
  | .immImm _ _ => .immImm
  | .regRegImmImm _ _ _ _ => .regRegImmImm
  | .regImm64 _ _ => .regImm64

/-! ## Reading operand fields -/

/-- A register field (rule R81). -/
def regField (v : BitVec 4) : Except DecodeError Reg :=
  match regOfNum v.toNat with
  | some r => .ok r
  | none => .error (.badRegister v.toNat)

/-- `RB1`: one register in the low nibble, the high nibble zero (rule R64). Answers the bytes that follow too. -/
def takeReg : List Byte → Except DecodeError (Reg × List Byte)
  | [] => .error .truncated
  | b :: rest =>
    if b.extractLsb' 4 4 = 0 then (regField (b.extractLsb' 0 4)).map (fun r => (r, rest))
    else .error .badHighNibble

/-- `RB2`: the first register of the syntax in the low nibble, the second in the high nibble (rule R64). -/
def takeRegs : List Byte → Except DecodeError (Reg × Reg × List Byte)
  | [] => .error .truncated
  | b :: rest => do
    let r1 ← regField (b.extractLsb' 0 4)
    let r2 ← regField (b.extractLsb' 4 4)
    return (r1, r2, rest)

/-- A 32-bit field, least significant byte first (rule R65). -/
def takeImm32 : List Byte → Except DecodeError (Imm32 × List Byte)
  | b0 :: b1 :: b2 :: b3 :: rest => .ok (b3 ++ b2 ++ b1 ++ b0, rest)
  | _ => .error .truncated

/-- A 64-bit field, least significant byte first (rule R65). -/
def takeImm64 : List Byte → Except DecodeError (Imm64 × List Byte)
  | b0 :: b1 :: b2 :: b3 :: b4 :: b5 :: b6 :: b7 :: rest =>
    .ok (b7 ++ b6 ++ b5 ++ b4 ++ b3 ++ b2 ++ b1 ++ b0, rest)
  | _ => .error .truncated

/-- The operands that the bytes after the opcode hold in a format (rules R64, R65). -/
def decodeOperands (f : Format) (bs : List Byte) : Except DecodeError Operands :=
  match f with
  | .argless => .ok .argless
  | .reg => do
    let (r, _) ← takeReg bs
    return .reg r
  | .regImm => do
    let (r, bs) ← takeReg bs
    let (v, _) ← takeImm32 bs
    return .regImm r v
  | .regImmOffset => do
    let (r, bs) ← takeReg bs
    let (v, bs) ← takeImm32 bs
    let (o, _) ← takeImm32 bs
    return .regImmOffset r v o
  | .regImmImm => do
    let (r, bs) ← takeReg bs
    let (v, bs) ← takeImm32 bs
    let (w, _) ← takeImm32 bs
    return .regImmImm r v w
  | .regReg => do
    let (r1, r2, _) ← takeRegs bs
    return .regReg r1 r2
  | .regRegImm => do
    let (r1, r2, bs) ← takeRegs bs
    let (v, _) ← takeImm32 bs
    return .regRegImm r1 r2 v
  | .regRegOffset => do
    let (r1, r2, bs) ← takeRegs bs
    let (o, _) ← takeImm32 bs
    return .regRegOffset r1 r2 o
  | .regRegReg => do
    let (r1, r2, bs) ← takeRegs bs
    let (r3, _) ← takeReg bs
    return .regRegReg r1 r2 r3
  | .offset => do
    let (o, _) ← takeImm32 bs
    return .offset o
  | .imm => do
    let (v, _) ← takeImm32 bs
    return .imm v
  | .immImm => do
    let (v, bs) ← takeImm32 bs
    let (w, _) ← takeImm32 bs
    return .immImm v w
  | .regRegImmImm => do
    let (r1, r2, bs) ← takeRegs bs
    let (v, bs) ← takeImm32 bs
    let (w, _) ← takeImm32 bs
    return .regRegImmImm r1 r2 v w
  | .regImm64 => do
    let (r, bs) ← takeReg bs
    let (v, _) ← takeImm64 bs
    return .regImm64 r v

/-! ## The opcode map (rule R75) -/

/-- A row of the opcode map: a format and the instruction its operands make. -/
inductive Row
  | argless (i : Instr)
  | reg (mk : Reg → Instr)
  | regImm (mk : Reg → Imm32 → Instr)
  | regImmOffset (mk : Reg → Imm32 → Imm32 → Instr)
  | regReg (mk : Reg → Reg → Instr)
  | regRegImm (mk : Reg → Reg → Imm32 → Instr)
  | regRegOffset (mk : Reg → Reg → Imm32 → Instr)
  | offset (mk : Imm32 → Instr)
  | imm (mk : Imm32 → Instr)
  | regImm64 (mk : Reg → Imm64 → Instr)

/-- The row of an opcode number; the 161 numbers without a row are unassigned (rules R75, R77). -/
def rowOf : Nat → Option Row
  | 0 => some (.argless .trap)
  | 10 => some (.imm .ecalli)
  | 20 => some (.regImm .loadImmU8)
  | 21 => some (.regImm .loadImmU16)
  | 22 => some (.regImm .loadImmU32)
  | 23 => some (.regImm64 .loadImmU64)
  | 24 => some (.regImm .loadImmS32)
  | 30 => some (.imm .storeImmU8)
  | 31 => some (.imm .storeImmU16)
  | 32 => some (.imm .storeImmU32)
  | 33 => some (.imm .storeImmU64)
  | 40 => some (.offset .jump)
  | 50 => some (.regRegImm .load8)
  | 51 => some (.regRegImm .load8Signed)
  | 52 => some (.regRegImm .load16)
  | 53 => some (.regRegImm .load16Signed)
  | 54 => some (.regRegImm .load32)
  | 55 => some (.regRegImm .load32Signed)
  | 56 => some (.regRegImm .load64)
  | 60 => some (.regRegImm .store8)
  | 61 => some (.regRegImm .store16)
  | 62 => some (.regRegImm .store32)
  | 63 => some (.regRegImm .store64)
  | 100 => some (.regReg .moveReg)
  | 104 => some (.reg .countLeadingZeroBits32)
  | 105 => some (.reg .countLeadingZeroBits64)
  | 106 => some (.reg .countTrailingZeroBits32)
  | 107 => some (.reg .countTrailingZeroBits64)
  | 108 => some (.reg .countOnes)
  | 109 => some (.reg .swapBytes)
  | 110 => some (.regReg .memcpy)
  | 120 => some (.argless .memset)
  | 140 => some (.regImmOffset .setLessThanUnsignedImm)
  | 141 => some (.regImmOffset .setGreaterThanSignedImm)
  | 144 => some (.regImmOffset .shiftLogicalLeftImmAlt32)
  | 145 => some (.regImmOffset .shiftLogicalRightImmAlt32)
  | 146 => some (.regImmOffset .shiftArithmeticRightImmAlt32)
  | 147 => some (.regImmOffset .cmovIfZeroImm)
  | 148 => some (.regImmOffset .cmovIfNotZeroImm)
  | 150 => some (.argless .unlikely)
  | 151 => some (.argless .fallthrough)
  | 155 => some (.regImmOffset .shiftLogicalLeftImmAlt64)
  | 156 => some (.regImmOffset .shiftLogicalRightImmAlt64)
  | 157 => some (.regImmOffset .shiftArithmeticRightImmAlt64)
  | 158 => some (.regImmOffset .rotateRightImm64)
  | 159 => some (.regImmOffset .rotateRightImmAlt64)
  | 160 => some (.regImmOffset .rotateRightImm32)
  | 161 => some (.regImmOffset .rotateRightImmAlt32)
  | 170 => some (.regRegOffset .branchEq)
  | 171 => some (.regRegOffset .branchNotEq)
  | 172 => some (.regRegOffset .branchLessUnsigned)
  | 173 => some (.regRegOffset .branchLessSigned)
  | 174 => some (.regRegOffset .branchGreaterOrEqualUnsigned)
  | 175 => some (.regRegOffset .branchGreaterOrEqualSigned)
  | 190 => some (.regRegImm .add32)
  | 191 => some (.regRegImm .sub32)
  | 192 => some (.regRegImm .mul32)
  | 193 => some (.regReg .divUnsigned32)
  | 194 => some (.regReg .divSigned32)
  | 195 => some (.regReg .remUnsigned32)
  | 196 => some (.regReg .remSigned32)
  | 197 => some (.regReg .shiftLogicalLeft32)
  | 198 => some (.regReg .shiftLogicalRight32)
  | 199 => some (.regReg .shiftArithmeticRight32)
  | 200 => some (.regRegImm .add64)
  | 201 => some (.regRegImm .sub64)
  | 202 => some (.regRegImm .mul64)
  | 203 => some (.regReg .divUnsigned64)
  | 204 => some (.regReg .divSigned64)
  | 205 => some (.regReg .remUnsigned64)
  | 206 => some (.regReg .remSigned64)
  | 207 => some (.regReg .shiftLogicalLeft64)
  | 208 => some (.regReg .shiftLogicalRight64)
  | 209 => some (.regReg .shiftArithmeticRight64)
  | 210 => some (.regRegImm .bitwiseAnd)
  | 211 => some (.regRegImm .bitwiseXor)
  | 212 => some (.regRegImm .bitwiseOr)
  | 213 => some (.regReg .mulUpperSignedSigned)
  | 214 => some (.regReg .mulUpperUnsignedUnsigned)
  | 215 => some (.regReg .mulUpperSignedUnsigned)
  | 216 => some (.regRegImm .setLessThanUnsigned)
  | 217 => some (.regRegImm .setLessThanSigned)
  | 218 => some (.regRegImm .cmovIfZero)
  | 219 => some (.regRegImm .cmovIfNotZero)
  | 220 => some (.regReg .rotateLeft64)
  | 221 => some (.regReg .rotateLeft32)
  | 222 => some (.regReg .rotateRight64)
  | 223 => some (.regReg .rotateRight32)
  | 224 => some (.regRegImm .andInverted)
  | 225 => some (.regRegImm .orInverted)
  | 226 => some (.regRegImm .xnor)
  | 227 => some (.regRegImm .maximum)
  | 228 => some (.regRegImm .maximumUnsigned)
  | 229 => some (.regRegImm .minimum)
  | 230 => some (.regRegImm .minimumUnsigned)
  | _ => none

/-- The format of a row. -/
def rowFormat : Row → Format
  | .argless _ => .argless
  | .reg _ => .reg
  | .regImm _ => .regImm
  | .regImmOffset _ => .regImmOffset
  | .regReg _ => .regReg
  | .regRegImm _ => .regRegImm
  | .regRegOffset _ => .regRegOffset
  | .offset _ => .offset
  | .imm _ => .imm
  | .regImm64 _ => .regImm64

/-- The instruction that a row makes of operands of its own format. -/
def rowBuild : Row → Operands → Option Instr
  | .argless i, .argless => some i
  | .reg mk, .reg r => some (mk r)
  | .regImm mk, .regImm r v => some (mk r v)
  | .regImmOffset mk, .regImmOffset r v o => some (mk r v o)
  | .regReg mk, .regReg r1 r2 => some (mk r1 r2)
  | .regRegImm mk, .regRegImm r1 r2 v => some (mk r1 r2 v)
  | .regRegOffset mk, .regRegOffset r1 r2 o => some (mk r1 r2 o)
  | .offset mk, .offset o => some (mk o)
  | .imm mk, .imm v => some (mk v)
  | .regImm64 mk, .regImm64 r v => some (mk r v)
  | _, _ => none

/-- `Codec` at the head of a list of bytes: the instruction there, or why there is none. It never rejects an
immediate or an offset, and it does not read past the instruction (rules R63, R67, R70). -/
def decode : List Byte → Except DecodeError Instr
  | [] => .error .noByte
  | op :: rest =>
    match rowOf op.toNat with
    | none => .error (.unassignedOpcode op.toNat)
    | some row =>
      match decodeOperands (rowFormat row) rest with
      | .error e => .error e
      | .ok ops =>
        match rowBuild row ops with
        | some i => .ok i
        | none => .error (.unassignedOpcode op.toNat)

/-! ## The encoder -/

/-- The opcode number of an instruction (rule R75). -/
def opcodeOf : Instr → Nat
  | .trap => 0
  | .ecalli _ => 10
  | .loadImmU8 _ _ => 20
  | .loadImmU16 _ _ => 21
  | .loadImmU32 _ _ => 22
  | .loadImmU64 _ _ => 23
  | .loadImmS32 _ _ => 24
  | .storeImmU8 _ => 30
  | .storeImmU16 _ => 31
  | .storeImmU32 _ => 32
  | .storeImmU64 _ => 33
  | .jump _ => 40
  | .load8 _ _ _ => 50
  | .load8Signed _ _ _ => 51
  | .load16 _ _ _ => 52
  | .load16Signed _ _ _ => 53
  | .load32 _ _ _ => 54
  | .load32Signed _ _ _ => 55
  | .load64 _ _ _ => 56
  | .store8 _ _ _ => 60
  | .store16 _ _ _ => 61
  | .store32 _ _ _ => 62
  | .store64 _ _ _ => 63
  | .moveReg _ _ => 100
  | .countLeadingZeroBits32 _ => 104
  | .countLeadingZeroBits64 _ => 105
  | .countTrailingZeroBits32 _ => 106
  | .countTrailingZeroBits64 _ => 107
  | .countOnes _ => 108
  | .swapBytes _ => 109
  | .memcpy _ _ => 110
  | .memset => 120
  | .setLessThanUnsignedImm _ _ _ => 140
  | .setGreaterThanSignedImm _ _ _ => 141
  | .shiftLogicalLeftImmAlt32 _ _ _ => 144
  | .shiftLogicalRightImmAlt32 _ _ _ => 145
  | .shiftArithmeticRightImmAlt32 _ _ _ => 146
  | .cmovIfZeroImm _ _ _ => 147
  | .cmovIfNotZeroImm _ _ _ => 148
  | .unlikely => 150
  | .fallthrough => 151
  | .shiftLogicalLeftImmAlt64 _ _ _ => 155
  | .shiftLogicalRightImmAlt64 _ _ _ => 156
  | .shiftArithmeticRightImmAlt64 _ _ _ => 157
  | .rotateRightImm64 _ _ _ => 158
  | .rotateRightImmAlt64 _ _ _ => 159
  | .rotateRightImm32 _ _ _ => 160
  | .rotateRightImmAlt32 _ _ _ => 161
  | .branchEq _ _ _ => 170
  | .branchNotEq _ _ _ => 171
  | .branchLessUnsigned _ _ _ => 172
  | .branchLessSigned _ _ _ => 173
  | .branchGreaterOrEqualUnsigned _ _ _ => 174
  | .branchGreaterOrEqualSigned _ _ _ => 175
  | .add32 _ _ _ => 190
  | .sub32 _ _ _ => 191
  | .mul32 _ _ _ => 192
  | .divUnsigned32 _ _ => 193
  | .divSigned32 _ _ => 194
  | .remUnsigned32 _ _ => 195
  | .remSigned32 _ _ => 196
  | .shiftLogicalLeft32 _ _ => 197
  | .shiftLogicalRight32 _ _ => 198
  | .shiftArithmeticRight32 _ _ => 199
  | .add64 _ _ _ => 200
  | .sub64 _ _ _ => 201
  | .mul64 _ _ _ => 202
  | .divUnsigned64 _ _ => 203
  | .divSigned64 _ _ => 204
  | .remUnsigned64 _ _ => 205
  | .remSigned64 _ _ => 206
  | .shiftLogicalLeft64 _ _ => 207
  | .shiftLogicalRight64 _ _ => 208
  | .shiftArithmeticRight64 _ _ => 209
  | .bitwiseAnd _ _ _ => 210
  | .bitwiseXor _ _ _ => 211
  | .bitwiseOr _ _ _ => 212
  | .mulUpperSignedSigned _ _ => 213
  | .mulUpperUnsignedUnsigned _ _ => 214
  | .mulUpperSignedUnsigned _ _ => 215
  | .setLessThanUnsigned _ _ _ => 216
  | .setLessThanSigned _ _ _ => 217
  | .cmovIfZero _ _ _ => 218
  | .cmovIfNotZero _ _ _ => 219
  | .rotateLeft64 _ _ => 220
  | .rotateLeft32 _ _ => 221
  | .rotateRight64 _ _ => 222
  | .rotateRight32 _ _ => 223
  | .andInverted _ _ _ => 224
  | .orInverted _ _ _ => 225
  | .xnor _ _ _ => 226
  | .maximum _ _ _ => 227
  | .maximumUnsigned _ _ _ => 228
  | .minimum _ _ _ => 229
  | .minimumUnsigned _ _ _ => 230

/-- The operands of an instruction, in its format (rule R75). -/
def operandsOf : Instr → Operands
  | .trap => .argless
  | .ecalli imm => .imm imm
  | .loadImmU8 reg imm => .regImm reg imm
  | .loadImmU16 reg imm => .regImm reg imm
  | .loadImmU32 reg imm => .regImm reg imm
  | .loadImmU64 reg imm => .regImm64 reg imm
  | .loadImmS32 reg imm => .regImm reg imm
  | .storeImmU8 imm => .imm imm
  | .storeImmU16 imm => .imm imm
  | .storeImmU32 imm => .imm imm
  | .storeImmU64 imm => .imm imm
  | .jump offset => .offset offset
  | .load8 dest base offset => .regRegImm dest base offset
  | .load8Signed dest base offset => .regRegImm dest base offset
  | .load16 dest base offset => .regRegImm dest base offset
  | .load16Signed dest base offset => .regRegImm dest base offset
  | .load32 dest base offset => .regRegImm dest base offset
  | .load32Signed dest base offset => .regRegImm dest base offset
  | .load64 dest base offset => .regRegImm dest base offset
  | .store8 src base offset => .regRegImm src base offset
  | .store16 src base offset => .regRegImm src base offset
  | .store32 src base offset => .regRegImm src base offset
  | .store64 src base offset => .regRegImm src base offset
  | .moveReg dest src => .regReg dest src
  | .countLeadingZeroBits32 reg => .reg reg
  | .countLeadingZeroBits64 reg => .reg reg
  | .countTrailingZeroBits32 reg => .reg reg
  | .countTrailingZeroBits64 reg => .reg reg
  | .countOnes reg => .reg reg
  | .swapBytes reg => .reg reg
  | .memcpy src dest => .regReg src dest
  | .memset => .argless
  | .setLessThanUnsignedImm reg imm unused => .regImmOffset reg imm unused
  | .setGreaterThanSignedImm reg imm unused => .regImmOffset reg imm unused
  | .shiftLogicalLeftImmAlt32 reg shift unused => .regImmOffset reg shift unused
  | .shiftLogicalRightImmAlt32 reg shift unused => .regImmOffset reg shift unused
  | .shiftArithmeticRightImmAlt32 reg shift unused => .regImmOffset reg shift unused
  | .cmovIfZeroImm reg value unused => .regImmOffset reg value unused
  | .cmovIfNotZeroImm reg value unused => .regImmOffset reg value unused
  | .unlikely => .argless
  | .fallthrough => .argless
  | .shiftLogicalLeftImmAlt64 reg shift unused => .regImmOffset reg shift unused
  | .shiftLogicalRightImmAlt64 reg shift unused => .regImmOffset reg shift unused
  | .shiftArithmeticRightImmAlt64 reg shift unused => .regImmOffset reg shift unused
  | .rotateRightImm64 reg shift unused => .regImmOffset reg shift unused
  | .rotateRightImmAlt64 reg shift unused => .regImmOffset reg shift unused
  | .rotateRightImm32 reg shift unused => .regImmOffset reg shift unused
  | .rotateRightImmAlt32 reg shift unused => .regImmOffset reg shift unused
  | .branchEq reg1 reg2 offset => .regRegOffset reg1 reg2 offset
  | .branchNotEq reg1 reg2 offset => .regRegOffset reg1 reg2 offset
  | .branchLessUnsigned reg1 reg2 offset => .regRegOffset reg1 reg2 offset
  | .branchLessSigned reg1 reg2 offset => .regRegOffset reg1 reg2 offset
  | .branchGreaterOrEqualUnsigned reg1 reg2 offset => .regRegOffset reg1 reg2 offset
  | .branchGreaterOrEqualSigned reg1 reg2 offset => .regRegOffset reg1 reg2 offset
  | .add32 dest src imm => .regRegImm dest src imm
  | .sub32 dest src imm => .regRegImm dest src imm
  | .mul32 dest src imm => .regRegImm dest src imm
  | .divUnsigned32 dest src => .regReg dest src
  | .divSigned32 dest src => .regReg dest src
  | .remUnsigned32 dest src => .regReg dest src
  | .remSigned32 dest src => .regReg dest src
  | .shiftLogicalLeft32 dest count => .regReg dest count
  | .shiftLogicalRight32 dest count => .regReg dest count
  | .shiftArithmeticRight32 dest count => .regReg dest count
  | .add64 dest src imm => .regRegImm dest src imm
  | .sub64 dest src imm => .regRegImm dest src imm
  | .mul64 dest src imm => .regRegImm dest src imm
  | .divUnsigned64 dest src => .regReg dest src
  | .divSigned64 dest src => .regReg dest src
  | .remUnsigned64 dest src => .regReg dest src
  | .remSigned64 dest src => .regReg dest src
  | .shiftLogicalLeft64 dest count => .regReg dest count
  | .shiftLogicalRight64 dest count => .regReg dest count
  | .shiftArithmeticRight64 dest count => .regReg dest count
  | .bitwiseAnd dest src imm => .regRegImm dest src imm
  | .bitwiseXor dest src imm => .regRegImm dest src imm
  | .bitwiseOr dest src imm => .regRegImm dest src imm
  | .mulUpperSignedSigned dest src => .regReg dest src
  | .mulUpperUnsignedUnsigned dest src => .regReg dest src
  | .mulUpperSignedUnsigned dest src => .regReg dest src
  | .setLessThanUnsigned dest src imm => .regRegImm dest src imm
  | .setLessThanSigned dest src imm => .regRegImm dest src imm
  | .cmovIfZero dest src value => .regRegImm dest src value
  | .cmovIfNotZero dest src value => .regRegImm dest src value
  | .rotateLeft64 dest count => .regReg dest count
  | .rotateLeft32 dest count => .regReg dest count
  | .rotateRight64 dest count => .regReg dest count
  | .rotateRight32 dest count => .regReg dest count
  | .andInverted dest src imm => .regRegImm dest src imm
  | .orInverted dest src imm => .regRegImm dest src imm
  | .xnor dest src imm => .regRegImm dest src imm
  | .maximum dest src imm => .regRegImm dest src imm
  | .maximumUnsigned dest src imm => .regRegImm dest src imm
  | .minimum dest src imm => .regRegImm dest src imm
  | .minimumUnsigned dest src imm => .regRegImm dest src imm

/-- The format of an instruction (rule R75). -/
def formatOf (i : Instr) : Format :=
  operandsFormat (operandsOf i)

/-- The length in bytes of an instruction: the opcode alone gives it (rule R70). -/
def lengthOf (i : Instr) : Nat :=
  formatLength (formatOf i)

/-- `RB1` of a register (rule R64). -/
def rb1 (r : Reg) : Byte :=
  BitVec.ofNat 8 (regNum r)

/-- `RB2` of two registers: the first of the syntax in the low nibble (rule R64). -/
def rb2 (r1 r2 : Reg) : Byte :=
  BitVec.ofNat 4 (regNum r2) ++ BitVec.ofNat 4 (regNum r1)

/-- The four bytes of a 32-bit field, least significant first (rule R65). -/
def bytes32 (v : Imm32) : List Byte :=
  [v.extractLsb' 0 8, v.extractLsb' 8 8, v.extractLsb' 16 8, v.extractLsb' 24 8]

/-- The eight bytes of a 64-bit field, least significant first (rule R65). -/
def bytes64 (v : Imm64) : List Byte :=
  [v.extractLsb' 0 8, v.extractLsb' 8 8, v.extractLsb' 16 8, v.extractLsb' 24 8,
   v.extractLsb' 32 8, v.extractLsb' 40 8, v.extractLsb' 48 8, v.extractLsb' 56 8]

/-- The bytes of an operand list (rules R64, R65). -/
def encodeOperands : Operands → List Byte
  | .argless => []
  | .reg r => [rb1 r]
  | .regImm r v => rb1 r :: bytes32 v
  | .regImmOffset r v o => rb1 r :: (bytes32 v ++ bytes32 o)
  | .regImmImm r v w => rb1 r :: (bytes32 v ++ bytes32 w)
  | .regReg r1 r2 => [rb2 r1 r2]
  | .regRegImm r1 r2 v => rb2 r1 r2 :: bytes32 v
  | .regRegOffset r1 r2 o => rb2 r1 r2 :: bytes32 o
  | .regRegReg r1 r2 r3 => [rb2 r1 r2, rb1 r3]
  | .offset o => bytes32 o
  | .imm v => bytes32 v
  | .immImm v w => bytes32 v ++ bytes32 w
  | .regRegImmImm r1 r2 v w => rb2 r1 r2 :: (bytes32 v ++ bytes32 w)
  | .regImm64 r v => rb1 r :: bytes64 v

/-- The bytes of an instruction: the opcode byte, then its operands (rule R63). -/
def encode (i : Instr) : List Byte :=
  BitVec.ofNat 8 (opcodeOf i) :: encodeOperands (operandsOf i)

/-! ## Reading an instruction from a number, for the host -/

/-- The longest instruction has this many bytes (rule R65). -/
def maxLength : Nat := 10

/-- The bytes of a number of which the low `nbits` bits count: bits 7 to 0 are the first byte, up to the longest
instruction (rule R85). -/
def wordBytes (nbits w : Nat) : List Byte :=
  (List.range maxLength).map (fun k => BitVec.ofNat 8 (w % 2 ^ nbits / 2 ^ (8 * k)))

/-- The instruction the decoder reads from the bits of `w`, numbered as rule R85 numbers them. -/
def decodeTableWord (nbits w : Nat) : Option Instr :=
  match decode (wordBytes nbits w) with
  | .ok i => some i
  | .error _ => none

end Sys2Proof
end

