-- ==== Sys2Proof/Machine/Code.lean ====
section
/-! DEFINITION. The code space as the parameter `Codec` reads it: the linear decoding of a program and its instruction
starts (30_encoding.md rule R66), and the validity of a target (40_control_flow_and_branch.md rule R101). -/

namespace Sys2Proof.Machine

/-- The line of a codec table for an offset: the first that names it. -/
def entryAt (entries : List CodecEntry) (o : Nat) : Option CodecEntry :=
  entries.find? (fun e => e.offset == o)

/-- `Codec` at the offset `o`, where `bs` are the code bytes from `o` on: the instruction there and its length, or `none`
for `invalid`, which is also the answer for an instruction that reaches past the code (30_encoding.md rules R66, R67). -/
def codecAt (c : Codec) (o : Nat) (bs : List Byte) : Option (Instr × Nat) :=
  match c with
  | .reference =>
    match decode bs with
    | .ok i => some (i, lengthOf i)
    | .error _ => none
  | .table entries =>
    match entryAt entries o with
    | some e => if e.len ≤ bs.length then some (e.instr, e.len) else none
    | none => none

/-- Whether `t` bytes further on is an instruction start of the code `bs`, which begins at the offset `o`, when the first
`skip` bytes of `bs` still belong to the instruction before them. It walks the code once, from its first byte, as
30_encoding.md rule R66 does, and goes no further than the first place where decoding fails. An instruction of no
length leads nowhere else. -/
def startFrom (c : Codec) : List Byte → Nat → Nat → Nat → Bool
  | [], _, _, _ => false
  | _ :: _, _, 0, 0 => true
  | b :: bs, o, 0, t + 1 =>
    match codecAt c o (b :: bs) with
    | some (_, l + 1) => startFrom c bs (o + 1) l t
    | some (_, 0) => false
    | none => false
  | _ :: _, _, _ + 1, 0 => false
  | _ :: bs, o, skip + 1, t + 1 => startFrom c bs (o + 1) skip t

/-- `t` is in `Starts` (30_encoding.md rule R66). -/
def isStart (p : Params) (t : Nat) : Bool :=
  startFrom p.codec p.code 0 0 t

/-- `t` is a valid target: `0 <= t < CodeLen` and `t` is in `Starts` (40_control_flow_and_branch.md rule R101). -/
def validTarget (p : Params) (t : Int) : Bool :=
  decide (0 ≤ t) && decide (t < p.code.length) && isStart p t.toNat

/-- `Prog` at an offset: the instruction and its length, or `none` for `invalid` (30_encoding.md rules R66, R67). -/
def progAt (p : Params) (o : Nat) : Option (Instr × Nat) :=
  codecAt p.codec o (p.code.drop o)

end Sys2Proof.Machine
end

