-- ==== Sys2Proof/Machine/State.lean ====
section
/-! DEFINITION. The state of the machine (10_state.md rule R32, 00_scope.md rule R9), the reasons a step can stop, and
the state right after reset (70_reset_and_hazards.md rules R340, R341). -/

namespace Sys2Proof.Machine

/-- The trap reasons (60_exceptions.md rule R301). They carry no number and no further value (decision D24). -/
inductive TrapReason
  | explicit
  | divisionByZero
  | divisionOverflow
  | memoryAccess
  | invalidTarget
  | invalidInstruction
  deriving DecidableEq, Repr

/-- The status of the machine (00_scope.md rule R9, 10_state.md rule R32). -/
inductive Status
  | running
  | trapped (r : TrapReason)
  | inHostCall (k : Nat)
  deriving DecidableEq, Repr

/-- The 13 general-purpose registers (10_state.md rule R20). A cell has 64 bits; the machine sees its low `XLEN`
bits (rule R21, assumption log 11). -/
structure RegFile where
  ra : Word
  sp : Word
  t0 : Word
  t1 : Word
  t2 : Word
  s0 : Word
  s1 : Word
  a0 : Word
  a1 : Word
  a2 : Word
  a3 : Word
  a4 : Word
  a5 : Word
  deriving DecidableEq, Repr

/-- Data memory: the cells that differ from the byte an unlisted address reads as, addresses rising
(20_memory.md rule R40, assumption log 9). -/
abbrev Memory := List Host.Cell

/-- One answer of the host to a host call (60_exceptions.md rule R311): resume with a register file and changes to
data memory, or end the run. -/
inductive HostAnswer
  | resume (regs : RegFile) (patch : List Host.Cell)
  | stop
  deriving DecidableEq, Repr, Inhabited

end Sys2Proof.Machine

/-- The parameter `Host` (00_scope.md rule R5): the host's answer to call `k`, a function of `k` and of the state it sees,
which is the parameters of the run, the registers, `pc` and data memory (60_exceptions.md rules R310, R311). It has no
body: a claim that meets it holds for every host, one that answers every call of an endless run among them
(93_implementation_defined.md U7, assumption log 14). -/
opaque Sys2Proof.Config.host (p : Sys2Proof.Params) (k : Nat) (regs : Sys2Proof.Machine.RegFile) (pc : Nat)
    (mem : Sys2Proof.Machine.Memory) : Sys2Proof.Machine.HostAnswer

namespace Sys2Proof.Machine

/-- The whole state (10_state.md rule R32), with the launch parameters beside it because a step has no other
argument, and two fields of the model's own: `hostAnswers`, the answers assumed of the host for the next host calls, after
which the oracle `Config.host` answers (assumption log 14), and `freeCount`, how many free bytes have been drawn
(assumption log 13). -/
structure State where
  /-- The launch parameters, fixed for a run (00_scope.md rule R5). -/
  params : Params
  /-- The registers `x[0]` to `x[12]` (10_state.md rule R20). -/
  regs : RegFile
  /-- The program counter: a code offset, not a bit vector (10_state.md rules R25, R27). -/
  pc : Nat
  /-- Data memory (10_state.md rule R31). -/
  mem : Memory
  /-- The status (00_scope.md rule R9). -/
  status : Status
  /-- The answers assumed for the next host calls, the first one next. -/
  hostAnswers : List HostAnswer
  /-- The number of free bytes drawn so far. -/
  freeCount : Nat
  deriving DecidableEq, Repr

/-- Why the machine has no next state. Every reason here is raised by a step of a machine that is not `Running`;
no instruction raises one. -/
inductive Fault
  /-- The machine has trapped and is final (60_exceptions.md rule R304). Raised by a step of a trapped machine. Safe:
  the spec gives such a machine no step. -/
  | trapped (r : TrapReason)
  /-- The host has ended the run in host call `k` (60_exceptions.md rule R311 b). Raised by a step of a machine in a
  host call when the host's answer is `stop`. Safe: the spec gives such a machine no further step. -/
  | runEnded (k : Nat)
  deriving DecidableEq, Repr

/-- Why an instruction is given no meaning. -/
inductive Refusal
  /-- An instruction whose arm is not modelled yet. Raised by no arm of this model. Safe. -/
  | notModelled (mnemonic : String)
  /-- A remainder by zero, or of `INT_MIN` by -1, with the parameter `RemTrapsLikeDiv` false: "with `false`: `refuse`;
  never a value" (93_implementation_defined.md U4, decision D17). Raised by the four `rem_*` instructions. Safe. -/
  | remainderUnspecified
  /-- An `alt` shift or rotate with the parameter `AltSwapsOperands` true, for which `refuse` is the reading the spec
  names (93_implementation_defined.md U12). Raised by the eight `alt` instructions. Safe. -/
  | altOperandsSwapped
  deriving DecidableEq, Repr

/-- The parameters of State.reset: the values and defaults of 00_scope.md rule R5 where it has one, 64-bit mode, and
no program, no jump table and no accessible address (assumption log 1 to 6, 9, 10). -/
def Params.atReset : Params :=
  { mode := .x64
    ext32 := .sext
    remTrapsLikeDiv := true
    storeImmAddr := .a0
    altSwapsOperands := false
    codec := .reference
    code := []
    jumpTable := []
    access := [] }

/-- The registers of State.reset: zero, which the spec does not say (assumption log 7). -/
def RegFile.atReset : RegFile :=
  { ra := 0, sp := 0, t0 := 0, t1 := 0, t2 := 0, s0 := 0, s1 := 0
    a0 := 0, a1 := 0, a2 := 0, a3 := 0, a4 := 0, a5 := 0 }

/-- The machine right after a launch with nothing supplied (70_reset_and_hazards.md rule R341): status `Running`, and
for every value the host would supply the one the assumption log names. -/
def State.reset : State :=
  { params := Params.atReset
    regs := RegFile.atReset
    pc := 0
    mem := []
    status := .running
    hostAnswers := []
    freeCount := 0 }

end Sys2Proof.Machine
end

