-- ==== Sys2Proof/Machine/Ops.lean ====
section
/-! DEFINITION. The named operations over registers, the program counter, data memory and the status: everything the
pseudocode primitives of 00_scope.md rule R8 do, taking a trap (60_exceptions.md rule R303), entering a host call and
returning from one (rules R310, R311), and the launch (70_reset_and_hazards.md rule R341). -/

namespace Sys2Proof.Machine

/-- What an instruction answers. -/
abbrev Result := Host.Outcome State Fault Refusal

/-! ## Registers -/

/-- The cell of a register. -/
def RegFile.get (f : RegFile) : Reg → Word
  | .ra => f.ra
  | .sp => f.sp
  | .t0 => f.t0
  | .t1 => f.t1
  | .t2 => f.t2
  | .s0 => f.s0
  | .s1 => f.s1
  | .a0 => f.a0
  | .a1 => f.a1
  | .a2 => f.a2
  | .a3 => f.a3
  | .a4 => f.a4
  | .a5 => f.a5

/-- Change the cell of a register. -/
def RegFile.set (f : RegFile) (r : Reg) (v : Word) : RegFile :=
  match r with
  | .ra => { f with ra := v }
  | .sp => { f with sp := v }
  | .t0 => { f with t0 := v }
  | .t1 => { f with t1 := v }
  | .t2 => { f with t2 := v }
  | .s0 => { f with s0 := v }
  | .s1 => { f with s1 := v }
  | .a0 => { f with a0 := v }
  | .a1 => { f with a1 := v }
  | .a2 => { f with a2 := v }
  | .a3 => { f with a3 := v }
  | .a4 => { f with a4 := v }
  | .a5 => { f with a5 := v }

/-- A register file given from outside, each value cut to `n` bits (10_state.md rule R21). -/
def RegFile.cut (f : RegFile) (n : Nat) : RegFile :=
  { ra := (f.ra.setWidth n).setWidth 64
    sp := (f.sp.setWidth n).setWidth 64
    t0 := (f.t0.setWidth n).setWidth 64
    t1 := (f.t1.setWidth n).setWidth 64
    t2 := (f.t2.setWidth n).setWidth 64
    s0 := (f.s0.setWidth n).setWidth 64
    s1 := (f.s1.setWidth n).setWidth 64
    a0 := (f.a0.setWidth n).setWidth 64
    a1 := (f.a1.setWidth n).setWidth 64
    a2 := (f.a2.setWidth n).setWidth 64
    a3 := (f.a3.setWidth n).setWidth 64
    a4 := (f.a4.setWidth n).setWidth 64
    a5 := (f.a5.setWidth n).setWidth 64 }

/-- `XLEN` (00_scope.md rule R7). -/
abbrev State.xlen (s : State) : Nat := s.params.mode.width

/-- `x[r]`, all `XLEN` bits (00_scope.md rule R8). No register is hard-wired (10_state.md rule R21). -/
def State.reg (s : State) (r : Reg) : BitVec s.xlen :=
  (s.regs.get r).setWidth s.xlen

/-- `x[r] <- v` (00_scope.md rule R8). -/
def State.setReg (s : State) (r : Reg) (v : BitVec s.xlen) : State :=
  { s with regs := s.regs.set r (v.setWidth 64) }

/-! ## The program counter -/

/-- `pc <- t`. -/
def State.setPc (s : State) (t : Nat) : State :=
  { s with pc := t }

/-- `len`, the length of the instruction being executed as `Codec` reports it (00_scope.md rule R8). Under the reference
codec it is `n`, the length of the instruction's format (30_encoding.md rule R70); under another codec it is what that
codec reports at `pc`. Where it reports nothing there, which no step meets, it is `n` too (assumption log 1). -/
def State.len (s : State) (n : Nat) : Nat :=
  match s.params.codec with
  | .reference => n
  | .table entries =>
    match entryAt entries s.pc with
    | some e => e.len
    | none => n

/-- `pc <- nextpc`, where `nextpc` is `pc + len` (00_scope.md rule R8). -/
def State.advance (s : State) (f : Format) : State :=
  s.setPc (s.pc + s.len (formatLength f))

/-! ## Traps and host calls -/

/-- Trap entry: the status becomes `Trapped(r)` and nothing else changes; `pc` keeps the offset of the instruction
(60_exceptions.md rule R303). -/
def State.trap (s : State) (r : TrapReason) : State :=
  { s with status := .trapped r }

/-- `raise Trap(r)` (00_scope.md rule R8): the machine after trap entry is the next state. -/
def raise (r : TrapReason) (s : State) : Result :=
  .next (s.trap r)

/-- `HostCall(k)`: the status becomes `InHostCall(k)` (60_exceptions.md rule R310). -/
def State.enterHostCall (s : State) (k : Nat) : State :=
  { s with status := .inHostCall k }

/-! ## Access and data memory -/

/-- The permission a list of regions gives an address: that of the first region that holds it. -/
def regionAccess : List Region → Nat → Access
  | [], _ => .none
  | r :: rest, a => if r.base ≤ a ∧ a < r.base + r.size then r.access else regionAccess rest a

/-- `Access` (20_memory.md rule R42): a number outside `0 .. 2^XLEN - 1` is no data address. -/
def accessAt (p : Params) (a : Nat) : Access :=
  if a < 2 ^ p.mode.width then regionAccess p.access a else .none

/-- A load may read the address (20_memory.md rule R44). -/
def readable (p : Params) (a : Nat) : Bool :=
  accessAt p a != .none

/-- A store may write the address (20_memory.md rule R45). -/
def writable (p : Params) (a : Nat) : Bool :=
  accessAt p a == .rw

/-- The byte an unlisted address holds (assumption log 9). -/
def unlistedByte : Byte := 0

/-- The byte at an address. -/
def Memory.read (m : Memory) (a : Nat) : Byte :=
  match m with
  | [] => unlistedByte
  | c :: rest => if c.1 = a then c.2 else Memory.read rest a

/-- List a cell at its place. -/
def Memory.insert (m : Memory) (a : Nat) (b : Byte) : Memory :=
  match m with
  | [] => [(a, b)]
  | c :: rest =>
    if a < c.1 then (a, b) :: c :: rest
    else if a = c.1 then (a, b) :: rest
    else c :: Memory.insert rest a b

/-- Write one byte, keeping the canonical form: an address that holds the unlisted byte is not listed. -/
def Memory.write (m : Memory) (a : Nat) (b : Byte) : Memory :=
  if b = unlistedByte then m.filter (fun c => c.1 != a) else m.insert a b

/-- The canonical form: addresses strictly rising, and no cell with the byte an unlisted address holds. -/
def Memory.wf : Memory → Bool
  | [] => true
  | [c] => c.2 != unlistedByte
  | c :: d :: rest => c.2 != unlistedByte && decide (c.1 < d.1) && Memory.wf (d :: rest)

/-- Write cells one after another. -/
def Memory.writeAll (m : Memory) (cells : List Host.Cell) : Memory :=
  cells.foldl (fun m c => m.write c.1 c.2) m

/-- The part of a list of cells that lies at accessible addresses: all the host may supply or change
(10_state.md rule R33, 60_exceptions.md rule R311). -/
def accessibleCells (p : Params) (cells : List Host.Cell) : List Host.Cell :=
  cells.filter (fun c => readable p c.1)

/-- The `n` data addresses from `a` upward, modulo `2^XLEN` (20_memory.md rule R41). -/
def block {w : Nat} (a : BitVec w) (n : Nat) : List Nat :=
  (List.range n).map (fun i => (a.toNat + i) % 2 ^ w)

/-- The number whose bytes, least significant first, are given (20_memory.md rule R43). -/
def bytesValue : List Byte → Nat
  | [] => 0
  | b :: rest => b.toNat + 256 * bytesValue rest

/-- The low `n` bytes of a value, least significant first (20_memory.md rule R43). -/
def valueBytes {w : Nat} (v : BitVec w) (n : Nat) : List Byte :=
  (List.range n).map (fun i => v.extractLsb' (8 * i) 8)

/-- Change data memory. -/
def State.setMem (s : State) (m : Memory) : State :=
  { s with mem := m }

/-- Every byte of the block may be read (20_memory.md rule R44). -/
def State.canRead (s : State) (a : BitVec s.xlen) (n : Nat) : Bool :=
  (block a n).all (readable s.params)

/-- Every byte of the block may be written (20_memory.md rule R45). -/
def State.canWrite (s : State) (a : BitVec s.xlen) (n : Nat) : Bool :=
  (block a n).all (writable s.params)

/-- `MemRead(a, n)` (20_memory.md rule R44). -/
def State.memRead (s : State) (a : BitVec s.xlen) (n : Nat) : Except TrapReason (BitVec (8 * n)) :=
  if s.canRead a n then .ok (BitVec.ofNat (8 * n) (bytesValue ((block a n).map s.mem.read)))
  else .error .memoryAccess

/-- Bytes written at consecutive addresses from `a`, modulo `2^XLEN`, with no check. -/
def State.putBytes (s : State) (a : BitVec s.xlen) (bs : List Byte) : State :=
  s.setMem (s.mem.writeAll ((block a bs.length).zip bs))

/-- `MemWrite(a, n, v)` (20_memory.md rule R45): all checks come before the first byte is written. -/
def State.memWrite (s : State) (a : BitVec s.xlen) (n : Nat) (v : BitVec (8 * n)) : Except TrapReason State :=
  if s.canWrite a n then .ok (s.putBytes a (valueBytes v n)) else .error .memoryAccess

/-- The next `n` free bytes (assumption log 12). -/
def State.freeBytes (s : State) (n : Nat) : List Byte :=
  (List.range n).map (fun i => Config.freeByte (s.freeCount + i))

/-- `n` free bytes have been drawn. -/
def State.drawFree (s : State) (n : Nat) : State :=
  { s with freeCount := s.freeCount + n }

/-! ## How an instruction ends -/

/-- An instruction that changes nothing but `pc`. -/
def finish (f : Format) (s : State) : Result :=
  .next (s.advance f)

/-- An instruction that writes one register. -/
def writeReg (f : Format) (dest : Reg) (s : State) (v : BitVec s.xlen) : Result :=
  .next ((s.setReg dest v).advance f)

/-- `Jump(t)` (40_control_flow_and_branch.md rule R101). -/
def jumpTo (t : Int) (s : State) : Result :=
  if validTarget s.params t then .next (s.setPc t.toNat) else raise .invalidTarget s

/-- A 64-bit instruction at `XLEN = 32` is invalid, and this is checked before anything else it does
(30_encoding.md rule R80, 40_control_flow_and_branch.md rule R102). -/
def in64 (s : State) (k : Result) : Result :=
  match s.params.mode with
  | .x64 => k
  | .x32 => raise .invalidInstruction s

/-- An `alt` form under the parameter `AltSwapsOperands` (45_shift_rotate.md rule R221, 93_implementation_defined.md
U12): the spec names `refuse` as the reading of "true". -/
def altForm (s : State) (k : Result) : Result :=
  if s.params.altSwapsOperands then .refused .altOperandsSwapped else k

/-! ## Fetch, the host's answer, the launch -/

/-- The fetch of a step (40_control_flow_and_branch.md rule R102): the instruction at `pc`, or the trap that its
first lines raise. That a decoded instruction exists in the mode is checked by `in64`. -/
def fetch (s : State) : Except TrapReason Instr :=
  if isStart s.params s.pc then
    match progAt s.params s.pc with
    | some (i, _) => .ok i
    | none => .error .invalidInstruction
  else .error .invalidTarget

/-- What the host answers to call `k`: the next assumed answer, and where none is assumed what the oracle answers on
the state the host sees, which is `k`, the parameters, the 13 registers at `XLEN` bits, `pc` and data memory
(60_exceptions.md rules R310, R311, assumption log 14). -/
def State.hostAnswer (s : State) (k : Nat) : HostAnswer :=
  match s.hostAnswers with
  | a :: _ => a
  | [] => Config.host s.params k (s.regs.cut s.xlen) s.pc s.mem

/-- Return from host call `k` (60_exceptions.md rule R311): the host gives back a register file and the bytes of
accessible memory it changed, and the machine runs on at the `pc` that the call left; or the run is over. -/
def hostReturn (k : Nat) (s : State) : Result :=
  match s.hostAnswer k with
  | .stop => .fault (.runEnded k)
  | .resume regs patch =>
    .next { s with
      regs := regs.cut s.xlen
      mem := s.mem.writeAll (accessibleCells s.params patch)
      status := .running
      hostAnswers := s.hostAnswers.tail }

/-- The launch (70_reset_and_hazards.md rules R340, R341): the host fixes the parameters and supplies the registers,
the accessible memory and the entry offset. -/
def State.launch (p : Params) (entry : Nat) (regs : RegFile) (cells : List Host.Cell)
    (answers : List HostAnswer) : State :=
  { params := p
    regs := regs.cut p.mode.width
    pc := entry
    mem := Memory.writeAll [] (accessibleCells p cells)
    status := .running
    hostAnswers := answers
    freeCount := 0 }

end Sys2Proof.Machine
end

