-- ==== Sys2Proof/Machine/Flags.lean ====
section
/-! DEFINITION. There are no flags (10_state.md rule R28). This file holds what stands in their place: the conditions
that branches test on two registers (40_control_flow_and_branch.md rules R106 to R112) and the 0 or 1 that the
comparison instructions write (44_comparison.md rule R190). -/

namespace Sys2Proof.Machine

/-- The six conditions (40_control_flow_and_branch.md rules R107 to R112). -/
inductive Cond
  | eq | ne | ltU | ltS | geU | geS
  deriving DecidableEq, Repr

/-- `cond(a, b)` (40_control_flow_and_branch.md rules R107 to R112). -/
def condHolds {n : Nat} (c : Cond) (a b : BitVec n) : Bool :=
  match c with
  | .eq => a == b
  | .ne => a != b
  | .ltU => decide (a.toNat < b.toNat)
  | .ltS => decide (a.toInt < b.toInt)
  | .geU => decide (a.toNat ≥ b.toNat)
  | .geS => decide (a.toInt ≥ b.toInt)

/-- The value 1 or 0 that a comparison writes (44_comparison.md rule R190). -/
def truthValue (n : Nat) (c : Bool) : BitVec n :=
  if c then 1#n else 0#n

end Sys2Proof.Machine
end

