-- ==== Sys2Proof/Machine/Operands.lean ====
section
/-! DEFINITION. How an instruction reads its operands and widens its result: immediates (30_encoding.md rule R68), the
operand views and `res_W` (42_arithmetic.md rule R150, 00_scope.md rule R7), effective addresses
(41_load_store.md rules R126, R134), shift distances (45_shift_rotate.md rules R200, R207). -/

namespace Sys2Proof.Machine

/-- `simm`: the immediate sign-extended to `XLEN` bits (00_scope.md rule R7). -/
def State.simm (s : State) (imm : Imm32) : BitVec s.xlen :=
  imm.signExtend s.xlen

/-- The immediate at the working width `W`: `imm32` itself at 32, `sext_64(imm32)` at 64 (42_arithmetic.md rule R150). -/
def immAt (W : Nat) (imm : Imm32) : BitVec W :=
  imm.signExtend W

/-- The low `W` bits of a register (42_arithmetic.md rule R150). -/
def State.low (s : State) (W : Nat) (r : Reg) : BitVec W :=
  (s.reg r).setWidth W

/-- `res_W(v)`: a `W`-bit result as `XLEN` bits, widened as `ext32` says (00_scope.md rule R7). -/
def State.res (s : State) {W : Nat} (v : BitVec W) : BitVec s.xlen :=
  match s.params.ext32 with
  | .sext => v.signExtend s.xlen
  | .zext => v.setWidth s.xlen

/-- The effective address of a load or store: base plus sign-extended displacement, modulo `2^XLEN`
(41_load_store.md rule R126). -/
def State.effAddr (s : State) (base : Reg) (offset : Imm32) : BitVec s.xlen :=
  s.reg base + s.simm offset

/-- The address of a store-immediate: `x[A0]` with nothing added (41_load_store.md rule R134), or the other value of the
parameter `StoreImmAddr` (assumption log 5). -/
def State.storeImmAddress (s : State) (imm : Imm32) : BitVec s.xlen :=
  match s.params.storeImmAddr with
  | .a0 => s.reg .a0
  | .a0PlusImm => s.reg .a0 + s.simm imm

/-- The distance of a shift or rotate by register: `u(x[count]) mod W` (45_shift_rotate.md rules R200, R214). -/
def State.countDistance (s : State) (W : Nat) (count : Reg) : Nat :=
  (s.reg count).toNat % W

/-- The distance of a shift or rotate by immediate: `u(imm32) mod W` (45_shift_rotate.md rules R207, R214). -/
def immDistance (W : Nat) (imm : Imm32) : Nat :=
  imm.toNat % W

end Sys2Proof.Machine
end

