-- ==== Sys2Proof/Machine/Alu.lean ====
section
/-! DEFINITION. The computations of the arithmetic, shift, rotate, minimum, maximum and bit-manipulation instructions as
functions of bit vectors of any width (42_arithmetic.md, 45_shift_rotate.md, 47_min_max.md, 48_bit_manipulation.md). -/

namespace Sys2Proof.Machine

/-! ## Multiply upper -/

/-- The high half of an exact product: `(P div 2^n) mod 2^n`, `div` rounding toward minus infinity
(42_arithmetic.md rules R157 to R159). -/
def highHalf (n : Nat) (P : Int) : BitVec n :=
  BitVec.ofInt n (P.fdiv (2 ^ n))

/-! ## Division and remainder -/

/-- The trap a division raises, if any: a zero divisor first, then `INT_MIN / -1` of a signed one
(42_arithmetic.md rule R160, 60_exceptions.md rule R305). -/
def divTrap {W : Nat} (signed : Bool) (a b : BitVec W) : Option TrapReason :=
  if b = 0 then some .divisionByZero
  else if signed && a == BitVec.intMin W && b.toInt == -1 then some .divisionOverflow
  else none

/-- The quotient: unsigned, or signed and rounded toward zero (42_arithmetic.md rule R160). -/
def quotient {W : Nat} (signed : Bool) (a b : BitVec W) : BitVec W :=
  if signed then BitVec.ofInt W (a.toInt.tdiv b.toInt) else BitVec.ofNat W (a.toNat / b.toNat)

/-- The remainder that goes with the quotient (42_arithmetic.md rule R165). -/
def remainder {W : Nat} (signed : Bool) (a b : BitVec W) : BitVec W :=
  if signed then BitVec.ofInt W (a.toInt - b.toInt * a.toInt.tdiv b.toInt)
  else BitVec.ofNat W (a.toNat % b.toNat)

/-! ## Shifts and rotates -/

/-- `shl_W(a, n)` (45_shift_rotate.md, helper functions). -/
def shl {W : Nat} (a : BitVec W) (n : Nat) : BitVec W :=
  a <<< n

/-- `shr_W(a, n)`. -/
def shr {W : Nat} (a : BitVec W) (n : Nat) : BitVec W :=
  a >>> n

/-- `sar_W(a, n)`. -/
def sar {W : Nat} (a : BitVec W) (n : Nat) : BitVec W :=
  a.sshiftRight n

/-- `rotl_W(a, n)`, for `n < W`. -/
def rotl {W : Nat} (a : BitVec W) (n : Nat) : BitVec W :=
  if n = 0 then a else shl a n ||| shr a (W - n)

/-- `rotr_W(a, n)`, for `n < W`. -/
def rotr {W : Nat} (a : BitVec W) (n : Nat) : BitVec W :=
  if n = 0 then a else shr a n ||| shl a (W - n)

/-! ## Minimum and maximum (47_min_max.md rules R241 to R244) -/

/-- `a` if `s(a) >= s(b)`, else `b`. -/
def maxS {n : Nat} (a b : BitVec n) : BitVec n :=
  if a.toInt ≥ b.toInt then a else b

/-- `a` if `u(a) >= u(b)`, else `b`. -/
def maxU {n : Nat} (a b : BitVec n) : BitVec n :=
  if a.toNat ≥ b.toNat then a else b

/-- `a` if `s(a) <= s(b)`, else `b`. -/
def minS {n : Nat} (a b : BitVec n) : BitVec n :=
  if a.toInt ≤ b.toInt then a else b

/-- `a` if `u(a) <= u(b)`, else `b`. -/
def minU {n : Nat} (a b : BitVec n) : BitVec n :=
  if a.toNat ≤ b.toNat then a else b

/-! ## Bit counts and byte swap (48_bit_manipulation.md rules R251 to R256) -/

/-- The number of zero bits of `a` above its highest 1 bit among bits `k - 1` to 0. -/
def leadingZerosBelow {W : Nat} (a : BitVec W) : Nat → Nat
  | 0 => 0
  | k + 1 => if a.getLsbD k then 0 else leadingZerosBelow a k + 1

/-- `clz_W(a)`; `W` when `a` is zero (rules R251, R252). -/
def clz {W : Nat} (a : BitVec W) : Nat :=
  leadingZerosBelow a W

/-- The number of zero bits of `a` below its lowest 1 bit among the top `k` bits. -/
def trailingZerosAbove {W : Nat} (a : BitVec W) : Nat → Nat
  | 0 => 0
  | k + 1 => if a.getLsbD (W - (k + 1)) then 0 else trailingZerosAbove a k + 1

/-- `ctz_W(a)`; `W` when `a` is zero (rules R253, R254). -/
def ctz {W : Nat} (a : BitVec W) : Nat :=
  trailingZerosAbove a W

/-- The number of 1 bits of `a` among bits `k - 1` to 0. -/
def onesBelow {W : Nat} (a : BitVec W) : Nat → Nat
  | 0 => 0
  | k + 1 => onesBelow a k + (a.getLsbD k).toNat

/-- The number of 1 bits (rule R255). -/
def popCount {W : Nat} (a : BitVec W) : Nat :=
  onesBelow a W

/-- The bytes of `a` in reverse order, over all `W / 8` of them (rule R256). -/
def reverseBytes {W : Nat} (a : BitVec W) : BitVec W :=
  BitVec.ofNat W (bytesValue (valueBytes a (W / 8)).reverse)

/-! ## Blocks -/

/-- Two blocks of `n` bytes share an address (49_special.md rule R262): one of the two distances between their first
bytes, modulo `2^XLEN`, is less than `n`. -/
def blocksMeet {w : Nat} (a d : BitVec w) (n : Nat) : Bool :=
  decide ((d - a).toNat < n) || decide ((a - d).toNat < n)

/-! ## Shapes of instructions -/

/-- A `W`-bit operation on a register and an immediate, format `reg_reg_imm` (42_arithmetic.md rule R150). -/
def opRegImm (W : Nat) (f : BitVec W → BitVec W → BitVec W) (dest src : Reg) (imm : Imm32) (s : State) : Result :=
  writeReg .regRegImm dest s (s.res (f (s.low W src) (immAt W imm)))

/-- An `XLEN`-bit operation on a register and `simm`, format `reg_reg_imm` (43_logical.md rule R180, 47_min_max.md rule
R240). -/
def opFullImm (f : (n : Nat) → BitVec n → BitVec n → BitVec n) (dest src : Reg) (imm : Imm32) (s : State) : Result :=
  writeReg .regRegImm dest s (f s.xlen (s.reg src) (s.simm imm))

/-- An `XLEN`-bit operation on two registers, format `reg_reg`, the first also the destination (42_arithmetic.md rule
R157). -/
def opFullReg (f : (n : Nat) → BitVec n → BitVec n → BitVec n) (dest src : Reg) (s : State) : Result :=
  writeReg .regReg dest s (f s.xlen (s.reg dest) (s.reg src))

/-- A division (42_arithmetic.md rule R160). -/
def divide (W : Nat) (signed : Bool) (dest src : Reg) (s : State) : Result :=
  match divTrap signed (s.low W dest) (s.low W src) with
  | some r => raise r s
  | none => writeReg .regReg dest s (s.res (quotient signed (s.low W dest) (s.low W src)))

/-- A remainder (42_arithmetic.md rule R165): it traps as the division does when `RemTrapsLikeDiv` holds; otherwise those
two cases have no result, and the spec directs a refusal (93_implementation_defined.md U4). -/
def remain (W : Nat) (signed : Bool) (dest src : Reg) (s : State) : Result :=
  match divTrap signed (s.low W dest) (s.low W src) with
  | some r => if s.params.remTrapsLikeDiv then raise r s else .refused .remainderUnspecified
  | none => writeReg .regReg dest s (s.res (remainder signed (s.low W dest) (s.low W src)))

/-- A shift or rotate by a register (45_shift_rotate.md rules R200, R214). -/
def shiftByReg (W : Nat) (f : BitVec W → Nat → BitVec W) (dest count : Reg) (s : State) : Result :=
  writeReg .regReg dest s (s.res (f (s.low W dest) (s.countDistance W count)))

/-- A shift or rotate by an immediate (45_shift_rotate.md rules R207, R214). -/
def shiftByImm (W : Nat) (f : BitVec W → Nat → BitVec W) (r : Reg) (shift : Imm32) (s : State) : Result :=
  writeReg .regImmOffset r s (s.res (f (s.low W r) (immDistance W shift)))

/-- A bit count over the low `W` bits (48_bit_manipulation.md rule R250). -/
def countBits (W : Nat) (f : BitVec W → Nat) (r : Reg) (s : State) : Result :=
  writeReg .reg r s (BitVec.ofNat s.xlen (f (s.low W r)))

end Sys2Proof.Machine
end

