-- ==== Sys2Proof/Machine/Arith.lean ====
section
/-! DEFINITION. Arithmetic instructions (42_arithmetic.md). -/

namespace Sys2Proof.Machine

/-- `add_32` (R151). `src + imm`, modulo `2^W`; there is no carry (90_conflicts.md C1). -/
def execAdd32 (dest src : Reg) (imm : Imm32) (s : State) : Result :=
  opRegImm 32 (fun a b => a + b) dest src imm s

/-- `add_64` (R152). `src + imm`, modulo `2^W`; there is no carry (90_conflicts.md C1). -/
def execAdd64 (dest src : Reg) (imm : Imm32) (s : State) : Result :=
  in64 s (opRegImm 64 (fun a b => a + b) dest src imm s)

/-- `sub_32` (R153). `src - imm`, modulo `2^W`. -/
def execSub32 (dest src : Reg) (imm : Imm32) (s : State) : Result :=
  opRegImm 32 (fun a b => a - b) dest src imm s

/-- `sub_64` (R154). `src - imm`, modulo `2^W`. -/
def execSub64 (dest src : Reg) (imm : Imm32) (s : State) : Result :=
  in64 s (opRegImm 64 (fun a b => a - b) dest src imm s)

/-- `mul_32` (R155). The low `W` bits of `src * imm`. -/
def execMul32 (dest src : Reg) (imm : Imm32) (s : State) : Result :=
  opRegImm 32 (fun a b => a * b) dest src imm s

/-- `mul_64` (R156). The low `W` bits of `src * imm`. -/
def execMul64 (dest src : Reg) (imm : Imm32) (s : State) : Result :=
  in64 s (opRegImm 64 (fun a b => a * b) dest src imm s)

/-- `mul_upper_signed_signed` (R157). High half of `s(dest) * s(src)`. -/
def execMulUpperSignedSigned (dest src : Reg) (s : State) : Result :=
  opFullReg (fun n a b => highHalf n (a.toInt * b.toInt)) dest src s

/-- `mul_upper_unsigned_unsigned` (R158). High half of `u(dest) * u(src)`. -/
def execMulUpperUnsignedUnsigned (dest src : Reg) (s : State) : Result :=
  opFullReg (fun n a b => highHalf n ((a.toNat : Int) * b.toNat)) dest src s

/-- `mul_upper_signed_unsigned` (R159). High half of `s(dest) * u(src)`. -/
def execMulUpperSignedUnsigned (dest src : Reg) (s : State) : Result :=
  opFullReg (fun n a b => highHalf n (a.toInt * b.toNat)) dest src s

/-- `div_unsigned_32` (R161). Quotient of `dest` by `src`, unsigned, `W = 32`. -/
def execDivUnsigned32 (dest src : Reg) (s : State) : Result :=
  divide 32 false dest src s

/-- `div_unsigned_64` (R162). Quotient of `dest` by `src`, unsigned, `W = 64`. -/
def execDivUnsigned64 (dest src : Reg) (s : State) : Result :=
  in64 s (divide 64 false dest src s)

/-- `div_signed_32` (R163). Quotient of `dest` by `src`, signed, `W = 32`. -/
def execDivSigned32 (dest src : Reg) (s : State) : Result :=
  divide 32 true dest src s

/-- `div_signed_64` (R164). Quotient of `dest` by `src`, signed, `W = 64`. -/
def execDivSigned64 (dest src : Reg) (s : State) : Result :=
  in64 s (divide 64 true dest src s)

/-- `rem_unsigned_32` (R166). Remainder of `dest` by `src`, unsigned, `W = 32`. -/
def execRemUnsigned32 (dest src : Reg) (s : State) : Result :=
  remain 32 false dest src s

/-- `rem_unsigned_64` (R167). Remainder of `dest` by `src`, unsigned, `W = 64`. -/
def execRemUnsigned64 (dest src : Reg) (s : State) : Result :=
  in64 s (remain 64 false dest src s)

/-- `rem_signed_32` (R168). Remainder of `dest` by `src`, signed, `W = 32`. -/
def execRemSigned32 (dest src : Reg) (s : State) : Result :=
  remain 32 true dest src s

/-- `rem_signed_64` (R169). Remainder of `dest` by `src`, signed, `W = 64`. -/
def execRemSigned64 (dest src : Reg) (s : State) : Result :=
  in64 s (remain 64 true dest src s)

end Sys2Proof.Machine
end

