-- ==== Sys2Proof/Machine/BitManip.lean ====
section
/-! DEFINITION. Bit manipulation instructions (48_bit_manipulation.md). -/

namespace Sys2Proof.Machine

/-- `count_leading_zero_bits_32` (R251). `clz_32` of the low 32 bits. -/
def execCountLeadingZeroBits32 (reg : Reg) (s : State) : Result :=
  countBits 32 clz reg s

/-- `count_leading_zero_bits_64` (R252). `clz_64` of the low 64 bits. -/
def execCountLeadingZeroBits64 (reg : Reg) (s : State) : Result :=
  in64 s (countBits 64 clz reg s)

/-- `count_trailing_zero_bits_32` (R253). `ctz_32` of the low 32 bits. -/
def execCountTrailingZeroBits32 (reg : Reg) (s : State) : Result :=
  countBits 32 ctz reg s

/-- `count_trailing_zero_bits_64` (R254). `ctz_64` of the low 64 bits. -/
def execCountTrailingZeroBits64 (reg : Reg) (s : State) : Result :=
  in64 s (countBits 64 ctz reg s)

/-- `count_ones` (R255). 1 bits among all `XLEN` bits. -/
def execCountOnes (reg : Reg) (s : State) : Result :=
  countBits s.xlen popCount reg s

/-- `swap_bytes` (R256). All `XLEN / 8` bytes in reverse order. -/
def execSwapBytes (reg : Reg) (s : State) : Result :=
  writeReg .reg reg s (reverseBytes (s.reg reg))

end Sys2Proof.Machine
end

