-- ==== Sys2Proof/Machine/CMove.lean ====
section
/-! DEFINITION. Conditional move instructions (46_conditional_move.md). -/

namespace Sys2Proof.Machine

/-- `cmov_if_zero` (R231). `x[dest] <- simm` when `x[src]` is zero, all `XLEN` bits tested. -/
def execCmovIfZero (dest src : Reg) (value : Imm32) (s : State) : Result :=
  if s.reg src = 0 then writeReg .regRegImm dest s (s.simm value) else finish .regRegImm s

/-- `cmov_if_zero_imm` (R233). `x[reg] <- simm` when `x[reg]` is zero. -/
def execCmovIfZeroImm (reg : Reg) (value : Imm32) (s : State) : Result :=
  if s.reg reg = 0 then writeReg .regImmOffset reg s (s.simm value) else finish .regImmOffset s

/-- `cmov_if_not_zero` (R232). `x[dest] <- simm` when `x[src]` is not zero, all `XLEN` bits tested. -/
def execCmovIfNotZero (dest src : Reg) (value : Imm32) (s : State) : Result :=
  if s.reg src ≠ 0 then writeReg .regRegImm dest s (s.simm value) else finish .regRegImm s

/-- `cmov_if_not_zero_imm` (R234). `x[reg] <- simm` when `x[reg]` is not zero. -/
def execCmovIfNotZeroImm (reg : Reg) (value : Imm32) (s : State) : Result :=
  if s.reg reg ≠ 0 then writeReg .regImmOffset reg s (s.simm value) else finish .regImmOffset s

end Sys2Proof.Machine
end

