-- ==== Sys2Proof/Machine/Compare.lean ====
section
/-! DEFINITION. Comparison instructions (44_comparison.md). -/

namespace Sys2Proof.Machine

/-- `set_less_than_unsigned` (R191). `u(x[src]) < u(simm)`. -/
def execSetLessThanUnsigned (dest src : Reg) (imm : Imm32) (s : State) : Result :=
  writeReg .regRegImm dest s (truthValue s.xlen (condHolds .ltU (s.reg src) (s.simm imm)))

/-- `set_less_than_signed` (R192). `s(x[src]) < s(simm)`. -/
def execSetLessThanSigned (dest src : Reg) (imm : Imm32) (s : State) : Result :=
  writeReg .regRegImm dest s (truthValue s.xlen (condHolds .ltS (s.reg src) (s.simm imm)))

/-- `set_less_than_unsigned_imm` (R193). `u(x[reg]) < u(simm)`, into the same register. -/
def execSetLessThanUnsignedImm (reg : Reg) (imm : Imm32) (s : State) : Result :=
  writeReg .regImmOffset reg s (truthValue s.xlen (condHolds .ltU (s.reg reg) (s.simm imm)))

/-- `set_greater_than_signed_imm` (R194). `s(x[reg]) > s(simm)`, into the same register. -/
def execSetGreaterThanSignedImm (reg : Reg) (imm : Imm32) (s : State) : Result :=
  writeReg .regImmOffset reg s (truthValue s.xlen (condHolds .ltS (s.simm imm) (s.reg reg)))

end Sys2Proof.Machine
end

