-- ==== Sys2Proof/Machine/Control.lean ====
section
/-! DEFINITION. Control flow and branches (40_control_flow_and_branch.md). -/

namespace Sys2Proof.Machine

/-- `trap` (R103). Always `Trap(Explicit)`. -/
def execTrap (s : State) : Result :=
  raise .explicit s

/-- `ecalli` (R104). `pc <- nextpc`, then `HostCall(u(imm32))`. -/
def execEcalli (imm : Imm32) (s : State) : Result :=
  .next ((s.advance .imm).enterHostCall imm.toNat)

/-- `jump` (R105). Indirect through the jump table: the operand is an unsigned index, unscaled. -/
def execJump (offset : Imm32) (s : State) : Result :=
  match s.params.jumpTable[offset.toNat]? with
  | some t => jumpTo t s
  | none => raise .invalidTarget s

/-- The common rule of the six branches (rule R106): the offset counts from the branch's own first byte, in unbounded
integers, and a branch that is not taken never traps. -/
def branch (c : Cond) (r1 r2 : Reg) (off : Imm32) (s : State) : Result :=
  if condHolds c (s.reg r1) (s.reg r2) then jumpTo (s.pc + off.toInt) s else finish .regRegOffset s

/-- `branch_eq` (R107). Equal. -/
def execBranchEq (reg1 reg2 : Reg) (offset : Imm32) (s : State) : Result :=
  branch .eq reg1 reg2 offset s

/-- `branch_not_eq` (R108). Not equal. -/
def execBranchNotEq (reg1 reg2 : Reg) (offset : Imm32) (s : State) : Result :=
  branch .ne reg1 reg2 offset s

/-- `branch_less_unsigned` (R109). `u(a) < u(b)`. -/
def execBranchLessUnsigned (reg1 reg2 : Reg) (offset : Imm32) (s : State) : Result :=
  branch .ltU reg1 reg2 offset s

/-- `branch_less_signed` (R110). `s(a) < s(b)`. -/
def execBranchLessSigned (reg1 reg2 : Reg) (offset : Imm32) (s : State) : Result :=
  branch .ltS reg1 reg2 offset s

/-- `branch_greater_or_equal_unsigned` (R111). `u(a) >= u(b)`. -/
def execBranchGreaterOrEqualUnsigned (reg1 reg2 : Reg) (offset : Imm32) (s : State) : Result :=
  branch .geU reg1 reg2 offset s

/-- `branch_greater_or_equal_signed` (R112). `s(a) >= s(b)`. -/
def execBranchGreaterOrEqualSigned (reg1 reg2 : Reg) (offset : Imm32) (s : State) : Result :=
  branch .geS reg1 reg2 offset s

end Sys2Proof.Machine
end

