-- ==== Sys2Proof/Machine/LoadStore.lean ====
section
/-! DEFINITION. Load-immediate, load and store instructions (41_load_store.md). -/

namespace Sys2Proof.Machine

/-- `load_imm_u8` (R121). Bits 7:0 of the immediate, zero-extended. -/
def execLoadImmU8 (reg : Reg) (imm : Imm32) (s : State) : Result :=
  writeReg .regImm reg s ((imm.setWidth 8).setWidth s.xlen)

/-- `load_imm_u16` (R122). Bits 15:0 of the immediate, zero-extended. -/
def execLoadImmU16 (reg : Reg) (imm : Imm32) (s : State) : Result :=
  writeReg .regImm reg s ((imm.setWidth 16).setWidth s.xlen)

/-- `load_imm_u32` (R123). The immediate, zero-extended. -/
def execLoadImmU32 (reg : Reg) (imm : Imm32) (s : State) : Result :=
  writeReg .regImm reg s (imm.setWidth s.xlen)

/-- `load_imm_u64` (R124). The 64-bit immediate. -/
def execLoadImmU64 (reg : Reg) (imm : Imm64) (s : State) : Result :=
  in64 s (writeReg .regImm64 reg s (imm.setWidth s.xlen))

/-- `load_imm_s32` (R125). The immediate, sign-extended. -/
def execLoadImmS32 (reg : Reg) (imm : Imm32) (s : State) : Result :=
  writeReg .regImm reg s (imm.signExtend s.xlen)

/-- A load that zero-extends (rule R126). The address is computed before `dest` is written. -/
def loadZero (n : Nat) (dest base : Reg) (offset : Imm32) (s : State) : Result :=
  match s.memRead (s.effAddr base offset) n with
  | .ok v => writeReg .regRegImm dest s (v.setWidth s.xlen)
  | .error r => raise r s

/-- A load that sign-extends (rule R126). -/
def loadSign (n : Nat) (dest base : Reg) (offset : Imm32) (s : State) : Result :=
  match s.memRead (s.effAddr base offset) n with
  | .ok v => writeReg .regRegImm dest s (v.signExtend s.xlen)
  | .error r => raise r s

/-- A store of the low `8n` bits of a register (rule R139). -/
def storeReg (n : Nat) (src base : Reg) (offset : Imm32) (s : State) : Result :=
  match s.memWrite (s.effAddr base offset) n (s.low (8 * n) src) with
  | .ok t => .next (t.advance .regRegImm)
  | .error r => raise r s

/-- A store of a constant at the store-immediate address (rule R134). -/
def storeConst (n : Nat) (imm : Imm32) (v : BitVec (8 * n)) (s : State) : Result :=
  match s.memWrite (s.storeImmAddress imm) n v with
  | .ok t => .next (t.advance .imm)
  | .error r => raise r s

/-- `load_8` (R127). 1 byte, zero-extended. -/
def execLoad8 (dest base : Reg) (offset : Imm32) (s : State) : Result :=
  loadZero 1 dest base offset s

/-- `load_8_signed` (R128). 1 byte, sign-extended. -/
def execLoad8Signed (dest base : Reg) (offset : Imm32) (s : State) : Result :=
  loadSign 1 dest base offset s

/-- `load_16` (R129). 2 bytes, zero-extended. -/
def execLoad16 (dest base : Reg) (offset : Imm32) (s : State) : Result :=
  loadZero 2 dest base offset s

/-- `load_16_signed` (R130). 2 bytes, sign-extended. -/
def execLoad16Signed (dest base : Reg) (offset : Imm32) (s : State) : Result :=
  loadSign 2 dest base offset s

/-- `load_32` (R131). 4 bytes, zero-extended. -/
def execLoad32 (dest base : Reg) (offset : Imm32) (s : State) : Result :=
  loadZero 4 dest base offset s

/-- `load_32_signed` (R132). 4 bytes, sign-extended. -/
def execLoad32Signed (dest base : Reg) (offset : Imm32) (s : State) : Result :=
  loadSign 4 dest base offset s

/-- `load_64` (R133). 8 bytes; the mode is checked before the memory access. -/
def execLoad64 (dest base : Reg) (offset : Imm32) (s : State) : Result :=
  in64 s (loadZero 8 dest base offset s)

/-- `store_imm_u8` (R135). `imm32[7:0]`. -/
def execStoreImmU8 (imm : Imm32) (s : State) : Result :=
  storeConst 1 imm (imm.setWidth 8) s

/-- `store_imm_u16` (R136). `imm32[15:0]`. -/
def execStoreImmU16 (imm : Imm32) (s : State) : Result :=
  storeConst 2 imm (imm.setWidth 16) s

/-- `store_imm_u32` (R137). `imm32`. -/
def execStoreImmU32 (imm : Imm32) (s : State) : Result :=
  storeConst 4 imm imm s

/-- `store_imm_u64` (R138). `sext_64(imm32)`. -/
def execStoreImmU64 (imm : Imm32) (s : State) : Result :=
  in64 s (storeConst 8 imm (imm.signExtend 64) s)

/-- `store_8` (R140). 1 byte. -/
def execStore8 (src base : Reg) (offset : Imm32) (s : State) : Result :=
  storeReg 1 src base offset s

/-- `store_16` (R141). 2 bytes. -/
def execStore16 (src base : Reg) (offset : Imm32) (s : State) : Result :=
  storeReg 2 src base offset s

/-- `store_32` (R142). 4 bytes. -/
def execStore32 (src base : Reg) (offset : Imm32) (s : State) : Result :=
  storeReg 4 src base offset s

/-- `store_64` (R143). 8 bytes; the mode is checked before the memory access. -/
def execStore64 (src base : Reg) (offset : Imm32) (s : State) : Result :=
  in64 s (storeReg 8 src base offset s)

end Sys2Proof.Machine
end

