-- ==== Sys2Proof/Machine/Logical.lean ====
section
/-! DEFINITION. Logical instructions (43_logical.md). -/

namespace Sys2Proof.Machine

/-- `and` (R181). `src & simm`. -/
def execBitwiseAnd (dest src : Reg) (imm : Imm32) (s : State) : Result :=
  opFullImm (fun _ a b => a &&& b) dest src imm s

/-- `or` (R182). `src | simm`. -/
def execBitwiseOr (dest src : Reg) (imm : Imm32) (s : State) : Result :=
  opFullImm (fun _ a b => a ||| b) dest src imm s

/-- `xor` (R183). `src ^ simm`. -/
def execBitwiseXor (dest src : Reg) (imm : Imm32) (s : State) : Result :=
  opFullImm (fun _ a b => a ^^^ b) dest src imm s

/-- `and_inverted` (R184). `src & ~simm`: the immediate is extended first, then complemented. -/
def execAndInverted (dest src : Reg) (imm : Imm32) (s : State) : Result :=
  opFullImm (fun _ a b => a &&& ~~~b) dest src imm s

/-- `or_inverted` (R185). `src | ~simm`. -/
def execOrInverted (dest src : Reg) (imm : Imm32) (s : State) : Result :=
  opFullImm (fun _ a b => a ||| ~~~b) dest src imm s

/-- `xnor` (R186). `~(src ^ simm)`. -/
def execXnor (dest src : Reg) (imm : Imm32) (s : State) : Result :=
  opFullImm (fun _ a b => ~~~(a ^^^ b)) dest src imm s

end Sys2Proof.Machine
end

