-- ==== Sys2Proof/Machine/MinMax.lean ====
section
/-! DEFINITION. Minimum and maximum instructions (47_min_max.md). -/

namespace Sys2Proof.Machine

/-- `maximum` (R241). Larger of `x[src]` and `simm`, signed. -/
def execMaximum (dest src : Reg) (imm : Imm32) (s : State) : Result :=
  opFullImm (fun _ a b => maxS a b) dest src imm s

/-- `maximum_unsigned` (R242). Larger of `x[src]` and `simm`, unsigned. -/
def execMaximumUnsigned (dest src : Reg) (imm : Imm32) (s : State) : Result :=
  opFullImm (fun _ a b => maxU a b) dest src imm s

/-- `minimum` (R243). Smaller of `x[src]` and `simm`, signed. -/
def execMinimum (dest src : Reg) (imm : Imm32) (s : State) : Result :=
  opFullImm (fun _ a b => minS a b) dest src imm s

/-- `minimum_unsigned` (R244). Smaller of `x[src]` and `simm`, unsigned. -/
def execMinimumUnsigned (dest src : Reg) (imm : Imm32) (s : State) : Result :=
  opFullImm (fun _ a b => minU a b) dest src imm s

end Sys2Proof.Machine
end

