-- ==== Sys2Proof/Machine/Shift.lean ====
section
/-! DEFINITION. Shift and rotate instructions (45_shift_rotate.md). -/

namespace Sys2Proof.Machine

/-- `shift_logical_left_32` (R201). `shl_32` by the count register. -/
def execShiftLogicalLeft32 (dest count : Reg) (s : State) : Result :=
  shiftByReg 32 shl dest count s

/-- `shift_logical_left_64` (R202). `shl_64` by the count register. -/
def execShiftLogicalLeft64 (dest count : Reg) (s : State) : Result :=
  in64 s (shiftByReg 64 shl dest count s)

/-- `shift_logical_right_32` (R203). `shr_32` by the count register. -/
def execShiftLogicalRight32 (dest count : Reg) (s : State) : Result :=
  shiftByReg 32 shr dest count s

/-- `shift_logical_right_64` (R204). `shr_64` by the count register. -/
def execShiftLogicalRight64 (dest count : Reg) (s : State) : Result :=
  in64 s (shiftByReg 64 shr dest count s)

/-- `shift_arithmetic_right_32` (R205). `sar_32` by the count register. -/
def execShiftArithmeticRight32 (dest count : Reg) (s : State) : Result :=
  shiftByReg 32 sar dest count s

/-- `shift_arithmetic_right_64` (R206). `sar_64` by the count register. -/
def execShiftArithmeticRight64 (dest count : Reg) (s : State) : Result :=
  in64 s (shiftByReg 64 sar dest count s)

/-- `rotate_left_32` (R215). `rotl_32` by the count register. -/
def execRotateLeft32 (dest count : Reg) (s : State) : Result :=
  shiftByReg 32 rotl dest count s

/-- `rotate_left_64` (R216). `rotl_64` by the count register. -/
def execRotateLeft64 (dest count : Reg) (s : State) : Result :=
  in64 s (shiftByReg 64 rotl dest count s)

/-- `rotate_right_32` (R217). `rotr_32` by the count register. -/
def execRotateRight32 (dest count : Reg) (s : State) : Result :=
  shiftByReg 32 rotr dest count s

/-- `rotate_right_64` (R218). `rotr_64` by the count register. -/
def execRotateRight64 (dest count : Reg) (s : State) : Result :=
  in64 s (shiftByReg 64 rotr dest count s)

/-- `shift_logical_left_imm_alt_32` (R208). `shl_32` by the immediate. -/
def execShiftLogicalLeftImmAlt32 (reg : Reg) (shift : Imm32) (s : State) : Result :=
  altForm s (shiftByImm 32 shl reg shift s)

/-- `shift_logical_left_imm_alt_64` (R209). `shl_64` by the immediate. -/
def execShiftLogicalLeftImmAlt64 (reg : Reg) (shift : Imm32) (s : State) : Result :=
  in64 s (altForm s (shiftByImm 64 shl reg shift s))

/-- `shift_logical_right_imm_alt_32` (R210). `shr_32` by the immediate. -/
def execShiftLogicalRightImmAlt32 (reg : Reg) (shift : Imm32) (s : State) : Result :=
  altForm s (shiftByImm 32 shr reg shift s)

/-- `shift_logical_right_imm_alt_64` (R211). `shr_64` by the immediate. -/
def execShiftLogicalRightImmAlt64 (reg : Reg) (shift : Imm32) (s : State) : Result :=
  in64 s (altForm s (shiftByImm 64 shr reg shift s))

/-- `shift_arithmetic_right_imm_alt_32` (R212). `sar_32` by the immediate. -/
def execShiftArithmeticRightImmAlt32 (reg : Reg) (shift : Imm32) (s : State) : Result :=
  altForm s (shiftByImm 32 sar reg shift s)

/-- `shift_arithmetic_right_imm_alt_64` (R213). `sar_64` by the immediate. -/
def execShiftArithmeticRightImmAlt64 (reg : Reg) (shift : Imm32) (s : State) : Result :=
  in64 s (altForm s (shiftByImm 64 sar reg shift s))

/-- `rotate_right_imm_32` (R219). `rotr_32` by the immediate. -/
def execRotateRightImm32 (reg : Reg) (shift : Imm32) (s : State) : Result :=
  shiftByImm 32 rotr reg shift s

/-- `rotate_right_imm_64` (R220). `rotr_64` by the immediate. -/
def execRotateRightImm64 (reg : Reg) (shift : Imm32) (s : State) : Result :=
  in64 s (shiftByImm 64 rotr reg shift s)

/-- `rotate_right_imm_alt_32` (R221). `rotr_32` by the immediate. -/
def execRotateRightImmAlt32 (reg : Reg) (shift : Imm32) (s : State) : Result :=
  altForm s (shiftByImm 32 rotr reg shift s)

/-- `rotate_right_imm_alt_64` (R222). `rotr_64` by the immediate. -/
def execRotateRightImmAlt64 (reg : Reg) (shift : Imm32) (s : State) : Result :=
  in64 s (altForm s (shiftByImm 64 rotr reg shift s))

end Sys2Proof.Machine
end

