-- ==== Sys2Proof/Machine/Special.lean ====
section
/-! DEFINITION. Special instructions (49_special.md). -/

namespace Sys2Proof.Machine

/-- `move_reg` (R261). All `XLEN` bits. -/
def execMoveReg (dest src : Reg) (s : State) : Result :=
  writeReg .regReg dest s (s.reg src)

/-- `memcpy` (R262). The source register comes first. Source bytes are checked, then destination bytes, then bytes are written; blocks
that meet without coinciding leave free bytes in the destination (93_implementation_defined.md U5). -/
def execMemcpy (src dest : Reg) (s : State) : Result :=
  if s.canRead (s.reg src) (s.reg .a2).toNat && s.canWrite (s.reg dest) (s.reg .a2).toNat then
    if s.reg src ≠ s.reg dest ∧ blocksMeet (s.reg src) (s.reg dest) (s.reg .a2).toNat then
      .next (((s.putBytes (s.reg dest) (s.freeBytes (s.reg .a2).toNat)).drawFree (s.reg .a2).toNat).advance .regReg)
    else
      .next ((s.putBytes (s.reg dest) ((block (s.reg src) (s.reg .a2).toNat).map s.mem.read)).advance .regReg)
  else raise .memoryAccess s

/-- `memset` (R263). Destination A0, value the low byte of A1, count A2. -/
def execMemset (s : State) : Result :=
  if s.canWrite (s.reg .a0) (s.reg .a2).toNat then
    .next ((s.putBytes (s.reg .a0) (List.replicate (s.reg .a2).toNat ((s.reg .a1).setWidth 8))).advance .argless)
  else raise .memoryAccess s

/-- `unlikely` (R264). A hint: no effect. -/
def execUnlikely (s : State) : Result :=
  finish .argless s

/-- `fallthrough` (R265). No effect. -/
def execFallthrough (s : State) : Result :=
  finish .argless s

end Sys2Proof.Machine
end

