-- ==== Sys2Proof/Machine/Dispatch.lean ====
section
/-! DEFINITION. The dispatch of 30_encoding.md rule R75: one arm per constructor of Instr, each one direct call
of that instruction's meaning. -/

namespace Sys2Proof.Machine

/-- What executing one decoded instruction does to the machine (rule R102: "execute insn by its rule"). -/
def exec (i : Instr) (s : State) : Host.Outcome State Fault Refusal :=
  match i with
  | .trap => Sys2Proof.Machine.execTrap s
  | .ecalli imm => Sys2Proof.Machine.execEcalli imm s
  | .loadImmU8 reg imm => Sys2Proof.Machine.execLoadImmU8 reg imm s
  | .loadImmU16 reg imm => Sys2Proof.Machine.execLoadImmU16 reg imm s
  | .loadImmU32 reg imm => Sys2Proof.Machine.execLoadImmU32 reg imm s
  | .loadImmU64 reg imm => Sys2Proof.Machine.execLoadImmU64 reg imm s
  | .loadImmS32 reg imm => Sys2Proof.Machine.execLoadImmS32 reg imm s
  | .storeImmU8 imm => Sys2Proof.Machine.execStoreImmU8 imm s
  | .storeImmU16 imm => Sys2Proof.Machine.execStoreImmU16 imm s
  | .storeImmU32 imm => Sys2Proof.Machine.execStoreImmU32 imm s
  | .storeImmU64 imm => Sys2Proof.Machine.execStoreImmU64 imm s
  | .jump offset => Sys2Proof.Machine.execJump offset s
  | .load8 dest base offset => Sys2Proof.Machine.execLoad8 dest base offset s
  | .load8Signed dest base offset => Sys2Proof.Machine.execLoad8Signed dest base offset s
  | .load16 dest base offset => Sys2Proof.Machine.execLoad16 dest base offset s
  | .load16Signed dest base offset => Sys2Proof.Machine.execLoad16Signed dest base offset s
  | .load32 dest base offset => Sys2Proof.Machine.execLoad32 dest base offset s
  | .load32Signed dest base offset => Sys2Proof.Machine.execLoad32Signed dest base offset s
  | .load64 dest base offset => Sys2Proof.Machine.execLoad64 dest base offset s
  | .store8 src base offset => Sys2Proof.Machine.execStore8 src base offset s
  | .store16 src base offset => Sys2Proof.Machine.execStore16 src base offset s
  | .store32 src base offset => Sys2Proof.Machine.execStore32 src base offset s
  | .store64 src base offset => Sys2Proof.Machine.execStore64 src base offset s
  | .moveReg dest src => Sys2Proof.Machine.execMoveReg dest src s
  | .countLeadingZeroBits32 reg => Sys2Proof.Machine.execCountLeadingZeroBits32 reg s
  | .countLeadingZeroBits64 reg => Sys2Proof.Machine.execCountLeadingZeroBits64 reg s
  | .countTrailingZeroBits32 reg => Sys2Proof.Machine.execCountTrailingZeroBits32 reg s
  | .countTrailingZeroBits64 reg => Sys2Proof.Machine.execCountTrailingZeroBits64 reg s
  | .countOnes reg => Sys2Proof.Machine.execCountOnes reg s
  | .swapBytes reg => Sys2Proof.Machine.execSwapBytes reg s
  | .memcpy src dest => Sys2Proof.Machine.execMemcpy src dest s
  | .memset => Sys2Proof.Machine.execMemset s
  | .setLessThanUnsignedImm reg imm _ => Sys2Proof.Machine.execSetLessThanUnsignedImm reg imm s
  | .setGreaterThanSignedImm reg imm _ => Sys2Proof.Machine.execSetGreaterThanSignedImm reg imm s
  | .shiftLogicalLeftImmAlt32 reg shift _ => Sys2Proof.Machine.execShiftLogicalLeftImmAlt32 reg shift s
  | .shiftLogicalRightImmAlt32 reg shift _ => Sys2Proof.Machine.execShiftLogicalRightImmAlt32 reg shift s
  | .shiftArithmeticRightImmAlt32 reg shift _ => Sys2Proof.Machine.execShiftArithmeticRightImmAlt32 reg shift s
  | .cmovIfZeroImm reg value _ => Sys2Proof.Machine.execCmovIfZeroImm reg value s
  | .cmovIfNotZeroImm reg value _ => Sys2Proof.Machine.execCmovIfNotZeroImm reg value s
  | .unlikely => Sys2Proof.Machine.execUnlikely s
  | .fallthrough => Sys2Proof.Machine.execFallthrough s
  | .shiftLogicalLeftImmAlt64 reg shift _ => Sys2Proof.Machine.execShiftLogicalLeftImmAlt64 reg shift s
  | .shiftLogicalRightImmAlt64 reg shift _ => Sys2Proof.Machine.execShiftLogicalRightImmAlt64 reg shift s
  | .shiftArithmeticRightImmAlt64 reg shift _ => Sys2Proof.Machine.execShiftArithmeticRightImmAlt64 reg shift s
  | .rotateRightImm64 reg shift _ => Sys2Proof.Machine.execRotateRightImm64 reg shift s
  | .rotateRightImmAlt64 reg shift _ => Sys2Proof.Machine.execRotateRightImmAlt64 reg shift s
  | .rotateRightImm32 reg shift _ => Sys2Proof.Machine.execRotateRightImm32 reg shift s
  | .rotateRightImmAlt32 reg shift _ => Sys2Proof.Machine.execRotateRightImmAlt32 reg shift s
  | .branchEq reg1 reg2 offset => Sys2Proof.Machine.execBranchEq reg1 reg2 offset s
  | .branchNotEq reg1 reg2 offset => Sys2Proof.Machine.execBranchNotEq reg1 reg2 offset s
  | .branchLessUnsigned reg1 reg2 offset => Sys2Proof.Machine.execBranchLessUnsigned reg1 reg2 offset s
  | .branchLessSigned reg1 reg2 offset => Sys2Proof.Machine.execBranchLessSigned reg1 reg2 offset s
  | .branchGreaterOrEqualUnsigned reg1 reg2 offset => Sys2Proof.Machine.execBranchGreaterOrEqualUnsigned reg1 reg2 offset s
  | .branchGreaterOrEqualSigned reg1 reg2 offset => Sys2Proof.Machine.execBranchGreaterOrEqualSigned reg1 reg2 offset s
  | .add32 dest src imm => Sys2Proof.Machine.execAdd32 dest src imm s
  | .sub32 dest src imm => Sys2Proof.Machine.execSub32 dest src imm s
  | .mul32 dest src imm => Sys2Proof.Machine.execMul32 dest src imm s
  | .divUnsigned32 dest src => Sys2Proof.Machine.execDivUnsigned32 dest src s
  | .divSigned32 dest src => Sys2Proof.Machine.execDivSigned32 dest src s
  | .remUnsigned32 dest src => Sys2Proof.Machine.execRemUnsigned32 dest src s
  | .remSigned32 dest src => Sys2Proof.Machine.execRemSigned32 dest src s
  | .shiftLogicalLeft32 dest count => Sys2Proof.Machine.execShiftLogicalLeft32 dest count s
  | .shiftLogicalRight32 dest count => Sys2Proof.Machine.execShiftLogicalRight32 dest count s
  | .shiftArithmeticRight32 dest count => Sys2Proof.Machine.execShiftArithmeticRight32 dest count s
  | .add64 dest src imm => Sys2Proof.Machine.execAdd64 dest src imm s
  | .sub64 dest src imm => Sys2Proof.Machine.execSub64 dest src imm s
  | .mul64 dest src imm => Sys2Proof.Machine.execMul64 dest src imm s
  | .divUnsigned64 dest src => Sys2Proof.Machine.execDivUnsigned64 dest src s
  | .divSigned64 dest src => Sys2Proof.Machine.execDivSigned64 dest src s
  | .remUnsigned64 dest src => Sys2Proof.Machine.execRemUnsigned64 dest src s
  | .remSigned64 dest src => Sys2Proof.Machine.execRemSigned64 dest src s
  | .shiftLogicalLeft64 dest count => Sys2Proof.Machine.execShiftLogicalLeft64 dest count s
  | .shiftLogicalRight64 dest count => Sys2Proof.Machine.execShiftLogicalRight64 dest count s
  | .shiftArithmeticRight64 dest count => Sys2Proof.Machine.execShiftArithmeticRight64 dest count s
  | .bitwiseAnd dest src imm => Sys2Proof.Machine.execBitwiseAnd dest src imm s
  | .bitwiseXor dest src imm => Sys2Proof.Machine.execBitwiseXor dest src imm s
  | .bitwiseOr dest src imm => Sys2Proof.Machine.execBitwiseOr dest src imm s
  | .mulUpperSignedSigned dest src => Sys2Proof.Machine.execMulUpperSignedSigned dest src s
  | .mulUpperUnsignedUnsigned dest src => Sys2Proof.Machine.execMulUpperUnsignedUnsigned dest src s
  | .mulUpperSignedUnsigned dest src => Sys2Proof.Machine.execMulUpperSignedUnsigned dest src s
  | .setLessThanUnsigned dest src imm => Sys2Proof.Machine.execSetLessThanUnsigned dest src imm s
  | .setLessThanSigned dest src imm => Sys2Proof.Machine.execSetLessThanSigned dest src imm s
  | .cmovIfZero dest src value => Sys2Proof.Machine.execCmovIfZero dest src value s
  | .cmovIfNotZero dest src value => Sys2Proof.Machine.execCmovIfNotZero dest src value s
  | .rotateLeft64 dest count => Sys2Proof.Machine.execRotateLeft64 dest count s
  | .rotateLeft32 dest count => Sys2Proof.Machine.execRotateLeft32 dest count s
  | .rotateRight64 dest count => Sys2Proof.Machine.execRotateRight64 dest count s
  | .rotateRight32 dest count => Sys2Proof.Machine.execRotateRight32 dest count s
  | .andInverted dest src imm => Sys2Proof.Machine.execAndInverted dest src imm s
  | .orInverted dest src imm => Sys2Proof.Machine.execOrInverted dest src imm s
  | .xnor dest src imm => Sys2Proof.Machine.execXnor dest src imm s
  | .maximum dest src imm => Sys2Proof.Machine.execMaximum dest src imm s
  | .maximumUnsigned dest src imm => Sys2Proof.Machine.execMaximumUnsigned dest src imm s
  | .minimum dest src imm => Sys2Proof.Machine.execMinimum dest src imm s
  | .minimumUnsigned dest src imm => Sys2Proof.Machine.execMinimumUnsigned dest src imm s

end Sys2Proof.Machine
end

