-- ==== Sys2Proof/Machine/Step.lean ====
section
/-! DEFINITION. One step of the machine (40_control_flow_and_branch.md rule R102, 60_exceptions.md rules R304, R311), and
the host's way to put one instruction where the next step fetches it. -/

namespace Sys2Proof.Machine

/-- One step. A `Running` machine fetches and executes (rule R102); a trapped machine is final (rule R304); a machine
in a host call goes on with the host's answer (rule R311). -/
def step (s : State) : Host.Outcome State Fault Refusal :=
  match s.status with
  | .running =>
    match fetch s with
    | .ok i => exec i s
    | .error r => raise r s
  | .trapped r => .fault (.trapped r)
  | .inHostCall k => hostReturn k s

/-- `s` with one instruction, given as a number of the reference codec, placed at `pc`, and the machine `Running`. The
code before it is one-byte `fallthrough` instructions, so that `pc` is an instruction start (assumption log 22). -/
def State.withFetchWord (s : State) (nbits w : Nat) : State :=
  { s with
    params := { s.params with codec := .reference, code := List.replicate s.pc 0x97#8 ++ wordBytes nbits w }
    status := .running }

end Sys2Proof.Machine
end

