-- ==== Sys2Proof/WellFormed.lean ====
section
/-! DEFINITION. The checks on an instruction and on a launch that their types do not make
(30_encoding.md rule R80, 00_scope.md rule R5). A register operand out of range cannot be written down as an
`Instr`: the decoder rejects it (30_encoding.md rule R81). -/

namespace Sys2Proof

/-- The 23 instructions that exist in 64-bit mode only (30_encoding.md rule R80). -/
def Instr.only64 : Instr → Bool
  | .trap => false
  | .ecalli _ => false
  | .loadImmU8 _ _ => false
  | .loadImmU16 _ _ => false
  | .loadImmU32 _ _ => false
  | .loadImmU64 _ _ => true
  | .loadImmS32 _ _ => false
  | .storeImmU8 _ => false
  | .storeImmU16 _ => false
  | .storeImmU32 _ => false
  | .storeImmU64 _ => true
  | .jump _ => false
  | .load8 _ _ _ => false
  | .load8Signed _ _ _ => false
  | .load16 _ _ _ => false
  | .load16Signed _ _ _ => false
  | .load32 _ _ _ => false
  | .load32Signed _ _ _ => false
  | .load64 _ _ _ => true
  | .store8 _ _ _ => false
  | .store16 _ _ _ => false
  | .store32 _ _ _ => false
  | .store64 _ _ _ => true
  | .moveReg _ _ => false
  | .countLeadingZeroBits32 _ => false
  | .countLeadingZeroBits64 _ => true
  | .countTrailingZeroBits32 _ => false
  | .countTrailingZeroBits64 _ => true
  | .countOnes _ => false
  | .swapBytes _ => false
  | .memcpy _ _ => false
  | .memset => false
  | .setLessThanUnsignedImm _ _ _ => false
  | .setGreaterThanSignedImm _ _ _ => false
  | .shiftLogicalLeftImmAlt32 _ _ _ => false
  | .shiftLogicalRightImmAlt32 _ _ _ => false
  | .shiftArithmeticRightImmAlt32 _ _ _ => false
  | .cmovIfZeroImm _ _ _ => false
  | .cmovIfNotZeroImm _ _ _ => false
  | .unlikely => false
  | .fallthrough => false
  | .shiftLogicalLeftImmAlt64 _ _ _ => true
  | .shiftLogicalRightImmAlt64 _ _ _ => true
  | .shiftArithmeticRightImmAlt64 _ _ _ => true
  | .rotateRightImm64 _ _ _ => true
  | .rotateRightImmAlt64 _ _ _ => true
  | .rotateRightImm32 _ _ _ => false
  | .rotateRightImmAlt32 _ _ _ => false
  | .branchEq _ _ _ => false
  | .branchNotEq _ _ _ => false
  | .branchLessUnsigned _ _ _ => false
  | .branchLessSigned _ _ _ => false
  | .branchGreaterOrEqualUnsigned _ _ _ => false
  | .branchGreaterOrEqualSigned _ _ _ => false
  | .add32 _ _ _ => false
  | .sub32 _ _ _ => false
  | .mul32 _ _ _ => false
  | .divUnsigned32 _ _ => false
  | .divSigned32 _ _ => false
  | .remUnsigned32 _ _ => false
  | .remSigned32 _ _ => false
  | .shiftLogicalLeft32 _ _ => false
  | .shiftLogicalRight32 _ _ => false
  | .shiftArithmeticRight32 _ _ => false
  | .add64 _ _ _ => true
  | .sub64 _ _ _ => true
  | .mul64 _ _ _ => true
  | .divUnsigned64 _ _ => true
  | .divSigned64 _ _ => true
  | .remUnsigned64 _ _ => true
  | .remSigned64 _ _ => true
  | .shiftLogicalLeft64 _ _ => true
  | .shiftLogicalRight64 _ _ => true
  | .shiftArithmeticRight64 _ _ => true
  | .bitwiseAnd _ _ _ => false
  | .bitwiseXor _ _ _ => false
  | .bitwiseOr _ _ _ => false
  | .mulUpperSignedSigned _ _ => false
  | .mulUpperUnsignedUnsigned _ _ => false
  | .mulUpperSignedUnsigned _ _ => false
  | .setLessThanUnsigned _ _ _ => false
  | .setLessThanSigned _ _ _ => false
  | .cmovIfZero _ _ _ => false
  | .cmovIfNotZero _ _ _ => false
  | .rotateLeft64 _ _ => true
  | .rotateLeft32 _ _ => false
  | .rotateRight64 _ _ => true
  | .rotateRight32 _ _ => false
  | .andInverted _ _ _ => false
  | .orInverted _ _ _ => false
  | .xnor _ _ _ => false
  | .maximum _ _ _ => false
  | .maximumUnsigned _ _ _ => false
  | .minimum _ _ _ => false
  | .minimumUnsigned _ _ _ => false

/-- An instruction is well formed for a mode when that mode has it (30_encoding.md rule R80). -/
def Instr.wellFormed (m : Mode) (i : Instr) : Bool :=
  m == .x64 || !i.only64

/-- A region lies inside the data address space of the mode (20_memory.md rule R40). -/
def Region.inSpace (m : Mode) (r : Region) : Bool :=
  decide (r.base + r.size ≤ 2 ^ m.width)

/-- The bounds 00_scope.md rule R5 puts on launch parameters: `CodeLen < 2^31`, and `Access` speaks of data
addresses only. No step depends on it (assumption log 25). -/
def Params.wellFormed (p : Params) : Bool :=
  decide (p.code.length < 2 ^ 31) && p.access.all (Region.inSpace p.mode)

end Sys2Proof
end

