-- ==== Sys2Proof/Safety.lean ====
section
/-! DEFINITION. The terms in which claims speak: the values of registers as numbers (00_scope.md rule R6), what an
instruction leaves unchanged, `Starts` as 30_encoding.md rule R66 builds it, and the invariants of a safe run. -/

namespace Sys2Proof.Machine

/-! ## Values as numbers (00_scope.md rules R6, R7) -/

/-- `u(x[r])`. -/
def State.uval (s : State) (r : Reg) : Nat :=
  (s.reg r).toNat

/-- `s(x[r])`. -/
def State.sval (s : State) (r : Reg) : Int :=
  (s.reg r).toInt

/-- The number below `2^W` read as a two's complement signed one: `s(v)`. -/
def signedOf (W n : Nat) : Int :=
  if n < 2 ^ (W - 1) then n else (n : Int) - 2 ^ W

/-- `u(x[r][W-1:0])`. -/
def State.lowU (s : State) (W : Nat) (r : Reg) : Nat :=
  s.uval r % 2 ^ W

/-- `s(x[r][W-1:0])`. -/
def State.lowS (s : State) (W : Nat) (r : Reg) : Int :=
  signedOf W (s.lowU W r)

/-- `u(res_W(v))` for a `W`-bit result with `u(v) = n`: unchanged at `W = XLEN`, and under `ext32 = zext`; otherwise
bit `W - 1` fills the bits above. -/
def State.widened (s : State) (W n : Nat) : Nat :=
  if W < s.xlen ∧ s.params.ext32 = .sext ∧ 2 ^ (W - 1) ≤ n then n + (2 ^ s.xlen - 2 ^ W) else n

/-- `u(simm)`: the immediate is sign-extended and then read as unsigned. -/
def State.simmU (s : State) (imm : Imm32) : Nat :=
  (imm.toInt % 2 ^ s.xlen).toNat

/-- Bit `i` of `simm`. -/
def simmBit (imm : Imm32) (i : Nat) : Bool :=
  imm.getLsbD (min i 31)

/-- The i-th of the data addresses from `a` upward, modulo `2^XLEN` (20_memory.md rule R41). -/
def State.wrap (s : State) (a i : Nat) : Nat :=
  (a + i) % 2 ^ s.xlen

/-! ## Frames -/

/-- What an instruction that may write `dest` leaves as it was, and its advance of `pc` by its length, which is `len`
bytes under the reference codec and what `Codec` reports at `pc` under another (`State.len`): every other register, every byte of memory, the status, the parameters, and the model's own two fields. -/
structure KeepsRest (s t : State) (dest : Reg) (len : Nat) : Prop where
  regs : ∀ r, r ≠ dest → t.regs.get r = s.regs.get r
  mem : ∀ a, t.mem.read a = s.mem.read a
  pc : t.pc = s.pc + s.len len
  status : t.status = s.status
  params : t.params = s.params
  hostAnswers : t.hostAnswers = s.hostAnswers
  freeCount : t.freeCount = s.freeCount

/-- What an instruction that stores to the addresses `stored` leaves as it was, and its advance of `pc` by its length, as
in `KeepsRest`: every register, every byte elsewhere, the status, the parameters and the host's answers. -/
structure KeepsRegs (s t : State) (stored : List Nat) (len : Nat) : Prop where
  regs : ∀ r, t.regs.get r = s.regs.get r
  mem : ∀ a, a ∉ stored → t.mem.read a = s.mem.read a
  pc : t.pc = s.pc + s.len len
  status : t.status = s.status
  params : t.params = s.params
  hostAnswers : t.hostAnswers = s.hostAnswers

/-! ## Instruction starts -/

/-- `Starts` as 30_encoding.md rule R66 builds it: 0, and from each start the end of the instruction that `Codec` decodes
there, as long as it lies inside the code. -/
inductive Starts (p : Params) : Nat → Prop
  | first : 0 < p.code.length → Starts p 0
  | next (o : Nat) (i : Instr) (l : Nat) : Starts p o → progAt p o = some (i, l) → o + l < p.code.length →
      Starts p (o + l)

/-! ## Invariants -/

/-- Every register holds an `XLEN`-bit value (10_state.md rule R21). -/
def State.regsFit (s : State) : Prop :=
  ∀ r, (s.regs.get r).toNat < 2 ^ s.xlen

/-- Data memory is in canonical form, and addresses with no access hold nothing (10_state.md rule R33). -/
def State.memFits (s : State) : Prop :=
  s.mem.wf = true ∧ ∀ c ∈ s.mem, readable s.params c.1 = true

/-- The machine stands at an instruction start or at the end of its code: it never stands in the middle of an
instruction (30_encoding.md rule R66, 10_state.md rule R27). -/
def State.pcFits (s : State) : Prop :=
  isStart s.params s.pc = true ∨ s.pc = s.params.code.length

end Sys2Proof.Machine
end

