-- ==== Sys2Proof/Certificates/Slice0/Obligations.lean ====
section
/-! DEFINITION. The statements about the machine, for the provers. Each says what a rule of spec/ says, in numbers, bits
and bytes rather than in the model's own operations. Where a rule marks its content as a decision of the spec
(`92_eei_decisions.md D<n>`), the docstring names the decision. -/

open Sys2Proof Sys2Proof.Machine

/-! ## Encoding (30_encoding.md) -/

/-- Decode and encode agree on every instruction, with every operand, whatever bytes follow; and an instruction has the
length of its format (rules R63 to R65, R67, R70; the codec is the spec's own, D8). -/
def Obligations.DecodeOfEncode : Prop :=
  ∀ (i : Instr) (rest : List Byte),
    decode (encode i ++ rest) = .ok i ∧ (encode i).length = lengthOf i

/-- Bytes that decode are the encoding of what they decode to: each instruction has one encoding (rules R63 to R65; D8). -/
def Obligations.EncodeOfDecode : Prop :=
  ∀ (bs : List Byte) (i : Instr), decode bs = .ok i →
    lengthOf i ≤ bs.length ∧ bs.take (lengthOf i) = encode i

/-- The 161 unassigned opcode numbers decode as invalid, and executing one traps with no other effect (rule R77, D33). The
clause about a step has the reference codec as its premise, because the opcode byte is that codec's (D8). -/
def Obligations.UnassignedOpcodesAreInvalid : Prop :=
  ∀ (op : Byte) (rest : List Byte) (n : Nat), n = op.toNat →
    (1 ≤ n ∧ n ≤ 9) ∨ (11 ≤ n ∧ n ≤ 19) ∨ (25 ≤ n ∧ n ≤ 29) ∨ (34 ≤ n ∧ n ≤ 39) ∨ (41 ≤ n ∧ n ≤ 49) ∨
      (57 ≤ n ∧ n ≤ 59) ∨ (64 ≤ n ∧ n ≤ 99) ∨ (101 ≤ n ∧ n ≤ 103) ∨ (111 ≤ n ∧ n ≤ 119) ∨
      (121 ≤ n ∧ n ≤ 139) ∨ n = 142 ∨ n = 143 ∨ n = 149 ∨ (152 ≤ n ∧ n ≤ 154) ∨ (162 ≤ n ∧ n ≤ 169) ∨
      (176 ≤ n ∧ n ≤ 189) ∨ (231 ≤ n ∧ n ≤ 255) →
    (∃ e, decode (op :: rest) = .error e) ∧
      ∀ s : State, s.status = .running → s.params.codec = .reference → isStart s.params s.pc = true →
        s.params.code.drop s.pc = op :: rest →
        step s = .next { s with status := .trapped .invalidInstruction }

/-- The decoder answers invalid exactly when the first byte is none of the 95 opcode numbers, or fewer bytes remain than the
format's length, or a register field is out of range; the value of an immediate or an offset never matters (rule R67). Each
line lists the opcode numbers of one length and of one kind of second byte: 0 no register byte, 1 `RB1`, 2 `RB2`. -/
def Obligations.InvalidExactlyWhen : Prop :=
  ∀ (op : Byte) (rest : List Byte),
    (∃ e, decode (op :: rest) = .error e) ↔
      ¬ ∃ (ops : List Nat) (len kind : Nat),
        (ops, len, kind) ∈
          [([0, 120, 150, 151], 1, 0), ([10, 30, 31, 32, 33, 40], 5, 0), ([104, 105, 106, 107, 108, 109], 2, 1),
            ([20, 21, 22, 24], 6, 1),
            ([23, 140, 141, 144, 145, 146, 147, 148, 155, 156, 157, 158, 159, 160, 161], 10, 1),
            ([100, 110, 193, 194, 195, 196, 197, 198, 199, 203, 204, 205, 206, 207, 208, 209, 213, 214, 215, 220, 221,
              222, 223], 2, 2),
            ([50, 51, 52, 53, 54, 55, 56, 60, 61, 62, 63, 170, 171, 172, 173, 174, 175, 190, 191, 192, 200, 201, 202,
              210, 211, 212, 216, 217, 218, 219, 224, 225, 226, 227, 228, 229, 230], 6, 2)] ∧
          op.toNat ∈ ops ∧ len ≤ rest.length + 1 ∧
          ∀ b ∈ rest.head?, (kind = 1 → b.toNat < 13) ∧ (kind = 2 → b.toNat % 16 < 13 ∧ b.toNat / 16 < 13)

/-- A few instructions written out byte by byte in the spec decode to what the spec says they are (rules R65, R104,
R108, R124, R193, R251, R262, R263). -/
def Obligations.WrittenBytesDecode : Prop :=
  decode [0xC8, 0x87, 0xFE, 0xFF, 0xFF, 0xFF] = .ok (.add64 .a0 .a1 0xFFFFFFFE) ∧
    decode [0x0A, 0x07, 0x00, 0x00, 0x00] = .ok (.ecalli 7) ∧
    decode [0xAB, 0x87, 0xEC, 0xFF, 0xFF, 0xFF] = .ok (.branchNotEq .a0 .a1 0xFFFFFFEC) ∧
    decode [0x17, 0x07, 0x88, 0x77, 0x66, 0x55, 0x44, 0x33, 0x22, 0x11] =
      .ok (.loadImmU64 .a0 0x1122334455667788) ∧
    decode [0x8C, 0x07, 0x00, 0x00, 0x00, 0x00, 0x78, 0x56, 0x34, 0x12] =
      .ok (.setLessThanUnsignedImm .a0 0 0x12345678) ∧
    decode [0x68, 0x07] = .ok (.countLeadingZeroBits32 .a0) ∧
    decode [0x6E, 0x78] = .ok (.memcpy .a1 .a0) ∧
    decode [0x78] = .ok .memset

/-- The walk over the code finds exactly the instruction starts that the linear decoding builds, whatever `Codec` is
(rule R66, D11; how a codec is held is the model's choice, assumption log 1). -/
def Obligations.StartsAreTheLinearSweep : Prop :=
  ∀ (p : Params) (t : Nat), isStart p t = true ↔ Starts p t

/-! ## The step, traps and host calls (40_control_flow_and_branch.md, 60_exceptions.md) -/

/-- A `Running` machine at an instruction start executes the instruction that `Codec` reports there, and the length by which
it moves `pc` on is the one `Codec` reports; under the reference codec these are what the decoder reads there and the
length of its format. That nothing is added around `exec` is the model's placing: rule R102 checks the 23 64-bit opcodes at
`XLEN = 32` between decoding and executing, and here that check stands at the head of their meanings (assumption log 17);
how a codec is held is assumption log 1. -/
def Obligations.StepRunsDecodedInstruction : Prop :=
  ∀ (s : State) (i : Instr), s.status = .running → isStart s.params s.pc = true →
    (∀ l, progAt s.params s.pc = some (i, l) → step s = exec i s ∧ s.len (lengthOf i) = l) ∧
      (s.params.codec = .reference → decode (s.params.code.drop s.pc) = .ok i →
        step s = exec i s ∧ s.len (lengthOf i) = lengthOf i)

/-- A `Running` machine that is not at an instruction start, or at the end of the code or beyond it, traps with
`InvalidTarget`; at a start where `Codec` reports nothing valid, as the reference codec does where nothing decodes, it traps
with `InvalidInstruction`; nothing else changes (rules R102, R305; D11, D23, D33; how a codec is held is assumption log 1). -/
def Obligations.FetchTraps : Prop :=
  ∀ s : State, s.status = .running →
    ((s.params.code.length ≤ s.pc ∨ isStart s.params s.pc = false) →
        step s = .next { s with status := .trapped .invalidTarget }) ∧
      (isStart s.params s.pc = true →
        (progAt s.params s.pc = none ∨
          s.params.codec = .reference ∧ ∃ e, decode (s.params.code.drop s.pc) = .error e) →
        step s = .next { s with status := .trapped .invalidInstruction })

/-- A trapped machine is final: it takes no further step, so its status is never cleared (rule R304). -/
def Obligations.TrappedMachineIsFinal : Prop :=
  ∀ (s t : State) (r : TrapReason), s.status = .trapped r → step s ≠ .next t

/-- What the model answers where the spec gives a machine no step: a fault that names the trap (R304), or the host call in
which the host ended the run (R311 b), whether that answer was assumed or is the oracle's. The two names are the model's
(assumption log 15, 16), and so is what `hostAnswer` holds (log 14). -/
def Obligations.StepsThatDoNotExistAreFaults : Prop :=
  ∀ (s : State),
    (∀ r, s.status = .trapped r → step s = .fault (.trapped r)) ∧
      (∀ k, s.status = .inHostCall k → s.hostAnswer k = .stop → step s = .fault (.runEnded k))

/-- When the host resumes, the machine is `Running` at the `pc` the call left, with the host's registers cut to `XLEN`
bits; an address that is not accessible keeps its byte whatever the host gives, and so does an address it does not name;
a byte it gives once for an accessible address is there; the parameters are as before (rules R310, R311; D22). Where no answer
is assumed the host is a function of `k` and of what it sees: it resumes the run or ends it, and it answers two machines
alike that agree in the parameters, the registers at `XLEN` bits, `pc` and data memory. These clauses are the model's choice
(assumption log 14): that assumed answers come first and are used up one by one, that the host's registers are cut to `XLEN`
bits, that its bytes are taken at accessible addresses only, and that the parameters are part of what the host sees. -/
def Obligations.HostResumes : Prop :=
  ∀ (s : State) (k : Nat), s.status = .inHostCall k →
    (∀ (regs : RegFile) (patch : List Host.Cell), s.hostAnswer k = .resume regs patch →
      ∃ t, step s = .next t ∧ t.status = .running ∧ t.pc = s.pc ∧ t.params = s.params ∧
        t.hostAnswers = s.hostAnswers.tail ∧
        (∀ r, t.uval r = (regs.get r).toNat % 2 ^ s.xlen) ∧
        (∀ a, accessAt s.params a = .none → t.mem.read a = s.mem.read a) ∧
        (∀ a, a ∉ patch.map Prod.fst → t.mem.read a = s.mem.read a) ∧
        (∀ a b, (patch.map Prod.fst).Nodup → (a, b) ∈ patch → accessAt s.params a ≠ .none → t.mem.read a = b)) ∧
      (∀ (a : HostAnswer) (rest : List HostAnswer), s.hostAnswers = a :: rest → s.hostAnswer k = a) ∧
      (s.hostAnswers = [] →
        ((∃ t, step s = .next t ∧ t.status = .running ∧ t.pc = s.pc) ∨ step s = .fault (.runEnded k)) ∧
          ∀ s' : State, s'.hostAnswers = [] → s'.params = s.params → (∀ r, s'.uval r = s.uval r) → s'.pc = s.pc →
            s'.mem = s.mem → s'.hostAnswer k = s.hostAnswer k)

/-- A `Running` machine always has a next state: every event it can meet is a trap or an effect (rules R102, R300). The
premise is the values the spec gives the two parameters under which it directs a refusal (00_scope.md rule R5,
93_implementation_defined.md U4, U12). -/
def Obligations.RunningMachineAlwaysSteps : Prop :=
  ∀ s : State, s.status = .running → s.params.remTrapsLikeDiv = true → s.params.altSwapsOperands = false →
    ∃ t, step s = .next t

/-- No step changes a launch parameter: the mode, the codec, the code, the jump table and the access map are fixed for a
run (10_state.md rules R24, R32, 20_memory.md rules R42, R54). -/
def Obligations.ParametersNeverChange : Prop :=
  ∀ s t : State, step s = .next t → t.params = s.params

/-- Traps are precise: a step of a `Running` machine that ends in a trap changes the status and nothing else
(rule R303, D24). -/
def Obligations.TrapsArePrecise : Prop :=
  ∀ (s t : State) (r : TrapReason), s.status = .running → step s = .next t → t.status = .trapped r →
    t = { s with status := .trapped r }

/-- Only `ecalli` hands control to the host without ending the run, and the call identifier is its immediate read as
unsigned (rules R104, R310, R314). -/
def Obligations.OnlyEcalliCallsTheHost : Prop :=
  ∀ (i : Instr) (s t : State) (k : Nat), s.status = .running → exec i s = .next t → t.status = .inHostCall k →
    ∃ imm : Imm32, i = .ecalli imm ∧ k = imm.toNat

/-- An instruction that is not on the list of those that can trap never does (rule R302): by opcode, the list is `trap`,
the divisions and remainders, the loads and stores, `store_imm_*`, `memcpy`, `memset`, `jump`, the branches, and at
`XLEN = 32` the 23 64-bit instructions. -/
def Obligations.OnlyListedInstructionsTrap : Prop :=
  ∀ (i : Instr) (s t : State), s.status = .running → exec i s = .next t →
    opcodeOf i ∉ [0, 30, 31, 32, 33, 40, 50, 51, 52, 53, 54, 55, 56, 60, 61, 62, 63, 110, 120, 170, 171, 172, 173, 174,
      175, 193, 194, 195, 196, 203, 204, 205, 206] →
    (s.params.mode = .x64 ∨ opcodeOf i ∉ [23, 33, 56, 63, 105, 107, 155, 156, 157, 158, 159, 200, 201, 202, 203, 204,
      205, 206, 207, 208, 209, 220, 222]) →
    ∀ r, t.status ≠ .trapped r

/-- The 23 64-bit instructions are invalid at `XLEN = 32`: executing one traps with no other effect, whatever its operands
(rule R80, D4). -/
def Obligations.SixtyFourBitFormsTrapIn32BitMode : Prop :=
  ∀ (i : Instr) (s : State), s.params.mode = .x32 →
    opcodeOf i ∈ [23, 33, 56, 63, 105, 107, 155, 156, 157, 158, 159, 200, 201, 202, 203, 204, 205, 206, 207, 208, 209,
      220, 222] →
    exec i s = .next { s with status := .trapped .invalidInstruction }

/-- A step of a `Running` machine changes a byte of memory only where `Access` is `rw` (rules R45, R49, R263; D14). -/
def Obligations.GuestWritesOnlyWritableBytes : Prop :=
  ∀ (s t : State) (a : Nat), s.status = .running → step s = .next t → accessAt s.params a ≠ .rw →
    t.mem.read a = s.mem.read a

/-! ## Invariants and the launch (10_state.md, 70_reset_and_hazards.md) -/

/-- From any state that stands at an instruction start or at the end of the code, every step leads to such a state: the
machine never stands in the middle of an instruction (30_encoding.md rule R66, 10_state.md rule R27). -/
def Obligations.PcStaysOnInstructionStarts : Prop :=
  ∀ s t : State, s.pcFits → step s = .next t → t.pcFits

/-- From any state whose registers hold `XLEN`-bit values and whose memory is canonical and empty where there is no access,
every step leads to such a state (10_state.md rules R21, R33; the canonical form is the model's, assumption log 9). -/
def Obligations.RegistersAndMemoryStayFit : Prop :=
  ∀ s t : State, s.regsFit → s.memFits → step s = .next t → t.regsFit ∧ t.memFits

/-- A launch gives the state of rule R341 whatever the host supplies: status `Running`, `pc` at the entry offset, each
register the supplied value at `XLEN` bits, each accessible byte the supplied one, nothing where there is no access. The
last clause also says that memory is in canonical form, which is the model's choice (assumption log 9), as are a byte not
supplied, which reads 0 (log 9), the form of `Access` (log 10) and the 64-bit cell of a register (log 11). -/
def Obligations.LaunchState : Prop :=
  ∀ (p : Params) (entry : Nat) (regs : RegFile) (cells : List Host.Cell) (answers : List HostAnswer),
    (State.launch p entry regs cells answers).status = .running ∧
      (State.launch p entry regs cells answers).pc = entry ∧
      (State.launch p entry regs cells answers).params = p ∧
      (∀ r, (State.launch p entry regs cells answers).uval r = (regs.get r).toNat % 2 ^ p.mode.width) ∧
      (∀ a b, (cells.map Prod.fst).Nodup → (a, b) ∈ cells → accessAt p a ≠ .none →
        (State.launch p entry regs cells answers).mem.read a = b) ∧
      (State.launch p entry regs cells answers).regsFit ∧ (State.launch p entry regs cells answers).memFits

/-- The state right after reset is a launch with nothing supplied and meets the invariants; its values are the model's
choice (assumption log 2 and 7 to 9), its status the spec's. -/
def Obligations.ResetMeetsTheInvariants : Prop :=
  State.reset.status = .running ∧ State.reset.regsFit ∧ State.reset.memFits ∧ State.reset.pcFits ∧
    State.reset = State.launch Params.atReset 0 RegFile.atReset [] []

/-! ## Memory (20_memory.md) -/

/-- A value stored at any address, aligned or not, reads back from there, and it lies in memory least significant byte
first; bytes elsewhere keep their value (rules R41, R43 to R45; the byte order is D7). -/
def Obligations.StoredValueReadsBack : Prop :=
  ∀ (s t : State) (a : BitVec s.xlen) (n : Nat) (v : BitVec (8 * n)), n ∈ [1, 2, 4, 8] →
    s.memWrite a n v = .ok t →
    (∀ i, i < n → (t.mem.read ((a.toNat + i) % 2 ^ s.xlen)).toNat = v.toNat / 2 ^ (8 * i) % 256) ∧
      (∀ x, (∀ i, i < n → x ≠ (a.toNat + i) % 2 ^ s.xlen) → t.mem.read x = s.mem.read x) ∧
      t.memRead (a.setWidth t.xlen) n = .ok v

/-- The test for blocks that meet says exactly that some address of one block is an address of the other, modulo `2^XLEN`
(49_special.md rule R262). -/
def Obligations.BlocksMeetMeansSharedAddress : Prop :=
  ∀ (w : Nat) (a d : BitVec w) (n : Nat), n < 2 ^ w →
    (blocksMeet a d n = true ↔
      ∃ i j, i < n ∧ j < n ∧ (a.toNat + i) % 2 ^ w = (d.toNat + j) % 2 ^ w)

/-! ## Control flow (40_control_flow_and_branch.md) -/

/-- `trap` ends the run with reason `Explicit` where it stands; `ecalli` moves on and hands control to the host with its
immediate read as unsigned (rules R103, R104; D22, D24). -/
def Obligations.TrapAndHostCall : Prop :=
  ∀ (s : State) (imm : Imm32),
    encode .trap = [0x00] ∧ exec .trap s = .next { s with status := .trapped .explicit } ∧
      encode (.ecalli imm) = 0x0A :: bytes32 imm ∧
      exec (.ecalli imm) s = .next { s with pc := s.pc + s.len 5, status := .inHostCall imm.toNat }

/-- `unlikely` and `fallthrough` are one byte each in the reference codec and only move `pc` on by their length; when that
leaves the code, as after a `fallthrough` at its end, the next step traps with `InvalidTarget` (rules R264, R265). -/
def Obligations.HintsDoNothing : Prop :=
  encode .unlikely = [0x96] ∧ encode .fallthrough = [0x97] ∧
    ∀ (s t : State), t = { s with pc := s.pc + s.len 1 } →
      exec .unlikely s = .next t ∧ exec .fallthrough s = .next t ∧
        (s.status = .running → t.pc = s.params.code.length →
          step t = .next { t with status := .trapped .invalidTarget })

/-- `jump` goes to the jump-table entry its operand names, unscaled and unsigned, when that is an instruction start;
otherwise, and when the index is out of range, it traps where it stands. It writes no register (rules R101, R105; D13). -/
def Obligations.JumpThroughTable : Prop :=
  ∀ (s : State) (off : Imm32),
    (∀ t, s.params.jumpTable[off.toNat]? = some t → Starts s.params t →
        exec (.jump off) s = .next { s with pc := t }) ∧
      (∀ t, s.params.jumpTable[off.toNat]? = some t → ¬ Starts s.params t →
        exec (.jump off) s = .next { s with status := .trapped .invalidTarget }) ∧
      (s.params.jumpTable.length ≤ off.toNat →
        exec (.jump off) s = .next { s with status := .trapped .invalidTarget })

/-- The six branches compare two whole registers. Taken, they go to their own offset plus the signed operand when that is an
instruction start and trap where they stand when it is not; not taken, they fall through, whatever the operand
(rules R101, R106 to R112; D10, D11). -/
def Obligations.BranchesTakeTheirTarget : Prop :=
  ∀ (s : State) (r1 r2 : Reg) (off : Imm32) (i : Instr) (c : Prop),
    (i = .branchEq r1 r2 off ∧ (c ↔ s.uval r1 = s.uval r2)) ∨
      (i = .branchNotEq r1 r2 off ∧ (c ↔ s.uval r1 ≠ s.uval r2)) ∨
      (i = .branchLessUnsigned r1 r2 off ∧ (c ↔ s.uval r1 < s.uval r2)) ∨
      (i = .branchLessSigned r1 r2 off ∧ (c ↔ s.sval r1 < s.sval r2)) ∨
      (i = .branchGreaterOrEqualUnsigned r1 r2 off ∧ (c ↔ s.uval r1 ≥ s.uval r2)) ∨
      (i = .branchGreaterOrEqualSigned r1 r2 off ∧ (c ↔ s.sval r1 ≥ s.sval r2)) →
    (∀ t : Nat, c → (t : Int) = s.pc + off.toInt → Starts s.params t →
        exec i s = .next { s with pc := t }) ∧
      (c → (∀ t : Nat, Starts s.params t → (t : Int) ≠ s.pc + off.toInt) →
        exec i s = .next { s with status := .trapped .invalidTarget }) ∧
      (¬ c → exec i s = .next { s with pc := s.pc + s.len 6 })

/-! ## Loads and stores (41_load_store.md) -/

/-- The load-immediates write the part of the immediate their name says, zero- or sign-extended, and nothing else
(rules R120 to R125; D28). -/
def Obligations.LoadImmediates : Prop :=
  ∀ (s : State) (reg : Reg) (imm : Imm32) (imm64 : Imm64),
    (∃ t, exec (.loadImmU8 reg imm) s = .next t ∧ KeepsRest s t reg 6 ∧ t.uval reg = imm.toNat % 2 ^ 8) ∧
      (∃ t, exec (.loadImmU16 reg imm) s = .next t ∧ KeepsRest s t reg 6 ∧ t.uval reg = imm.toNat % 2 ^ 16) ∧
      (∃ t, exec (.loadImmU32 reg imm) s = .next t ∧ KeepsRest s t reg 6 ∧ t.uval reg = imm.toNat) ∧
      (∃ t, exec (.loadImmS32 reg imm) s = .next t ∧ KeepsRest s t reg 6 ∧ t.sval reg = imm.toInt) ∧
      (s.params.mode = .x64 →
        ∃ t, exec (.loadImmU64 reg imm64) s = .next t ∧ KeepsRest s t reg 10 ∧ t.uval reg = imm64.toNat)

/-- The effective address of a load or store is the base plus the signed displacement, modulo `2^XLEN` (rule R126,
20_memory.md rule R40; D6, D15). -/
def Obligations.EffectiveAddressWraps : Prop :=
  ∀ (s : State) (base : Reg) (offset : Imm32),
    ((s.effAddr base offset).toNat : Int) = ((s.uval base : Int) + offset.toInt) % 2 ^ s.xlen

/-- The unsigned loads widen the bytes at the effective address, least significant first, with zeros, into `dest`, and change
nothing else, when every byte is readable (rules R126, R127, R129, R131, R133). -/
def Obligations.ZeroExtendingLoads : Prop :=
  ∀ (s : State) (dest base : Reg) (offset : Imm32) (a : Nat) (m : Nat → Nat), a = (s.effAddr base offset).toNat →
    (∀ i, m i = (s.mem.read (s.wrap a i)).toNat) →
    ((∀ i, i < 1 → accessAt s.params (s.wrap a i) ≠ .none) →
        ∃ t, exec (.load8 dest base offset) s = .next t ∧ KeepsRest s t dest 6 ∧ t.uval dest = m 0) ∧
      ((∀ i, i < 2 → accessAt s.params (s.wrap a i) ≠ .none) →
        ∃ t, exec (.load16 dest base offset) s = .next t ∧ KeepsRest s t dest 6 ∧
          t.uval dest = m 0 + 2 ^ 8 * m 1) ∧
      ((∀ i, i < 4 → accessAt s.params (s.wrap a i) ≠ .none) →
        ∃ t, exec (.load32 dest base offset) s = .next t ∧ KeepsRest s t dest 6 ∧
          t.uval dest = m 0 + 2 ^ 8 * m 1 + 2 ^ 16 * m 2 + 2 ^ 24 * m 3) ∧
      (s.params.mode = .x64 → (∀ i, i < 8 → accessAt s.params (s.wrap a i) ≠ .none) →
        ∃ t, exec (.load64 dest base offset) s = .next t ∧ KeepsRest s t dest 6 ∧
          t.uval dest = m 0 + 2 ^ 8 * m 1 + 2 ^ 16 * m 2 + 2 ^ 24 * m 3 + 2 ^ 32 * m 4 + 2 ^ 40 * m 5 +
            2 ^ 48 * m 6 + 2 ^ 56 * m 7)

/-- The signed loads widen the bytes at the effective address with copies of the top bit (rules R126, R128, R130, R132). -/
def Obligations.SignExtendingLoads : Prop :=
  ∀ (s : State) (dest base : Reg) (offset : Imm32) (a : Nat) (m : Nat → Nat), a = (s.effAddr base offset).toNat →
    (∀ i, m i = (s.mem.read (s.wrap a i)).toNat) →
    ((∀ i, i < 1 → accessAt s.params (s.wrap a i) ≠ .none) →
        ∃ t, exec (.load8Signed dest base offset) s = .next t ∧ KeepsRest s t dest 6 ∧
          t.sval dest = signedOf 8 (m 0)) ∧
      ((∀ i, i < 2 → accessAt s.params (s.wrap a i) ≠ .none) →
        ∃ t, exec (.load16Signed dest base offset) s = .next t ∧ KeepsRest s t dest 6 ∧
          t.sval dest = signedOf 16 (m 0 + 2 ^ 8 * m 1)) ∧
      ((∀ i, i < 4 → accessAt s.params (s.wrap a i) ≠ .none) →
        ∃ t, exec (.load32Signed dest base offset) s = .next t ∧ KeepsRest s t dest 6 ∧
          t.sval dest = signedOf 32 (m 0 + 2 ^ 8 * m 1 + 2 ^ 16 * m 2 + 2 ^ 24 * m 3))

/-- The register stores put the low bytes of `src` at the effective address, least significant first, and change nothing
else, when every byte is writable (rules R139 to R143). -/
def Obligations.Stores : Prop :=
  ∀ (s : State) (src base : Reg) (offset : Imm32) (n : Nat) (i : Instr),
    (n = 1 ∧ i = .store8 src base offset) ∨ (n = 2 ∧ i = .store16 src base offset) ∨
      (n = 4 ∧ i = .store32 src base offset) ∨ (n = 8 ∧ i = .store64 src base offset ∧ s.params.mode = .x64) →
    (∀ j, j < n → accessAt s.params (s.wrap (s.effAddr base offset).toNat j) = .rw) →
    ∃ t, exec i s = .next t ∧ KeepsRegs s t (block (s.effAddr base offset) n) 6 ∧ t.freeCount = s.freeCount ∧
      ∀ j, j < n → (t.mem.read (s.wrap (s.effAddr base offset).toNat j)).toNat = s.uval src / 2 ^ (8 * j) % 256

/-- The store-immediates put the low bytes of the immediate (for the 64-bit form: of the sign-extended immediate) at the
store-immediate address, which is `x[A0]` under the spec's choice of the parameter `StoreImmAddr`, and change nothing else
(rules R134 to R138; D16, 90_conflicts.md C2; the parameter's other value is assumption log 5). -/
def Obligations.StoreImmediates : Prop :=
  ∀ (s : State) (imm : Imm32) (n : Nat) (i : Instr),
    (n = 1 ∧ i = .storeImmU8 imm) ∨ (n = 2 ∧ i = .storeImmU16 imm) ∨ (n = 4 ∧ i = .storeImmU32 imm) ∨
      (n = 8 ∧ i = .storeImmU64 imm ∧ s.params.mode = .x64) →
    (∀ j, j < n → accessAt s.params (s.wrap (s.storeImmAddress imm).toNat j) = .rw) →
    (s.params.storeImmAddr = .a0 → (s.storeImmAddress imm).toNat = s.uval .a0) ∧
      ∃ t, exec i s = .next t ∧ KeepsRegs s t (block (s.storeImmAddress imm) n) 5 ∧ t.freeCount = s.freeCount ∧
        ∀ j, j < n →
          ((t.mem.read (s.wrap (s.storeImmAddress imm).toNat j)).toNat : Int) = imm.toInt / 2 ^ (8 * j) % 256

/-- A load with a byte that is not readable, and a store with a byte that is not writable, traps with nothing read into a
register and nothing written (rules R126, R134, R139, 20_memory.md rules R44, R45; D14). -/
def Obligations.BadAccessesTrap : Prop :=
  ∀ (s : State) (r base : Reg) (offset : Imm32) (n : Nat) (i : Instr),
    (n = 8 → s.params.mode = .x64) →
    ((n = 1 ∧ i ∈ [.load8 r base offset, .load8Signed r base offset]) ∨
        (n = 2 ∧ i ∈ [.load16 r base offset, .load16Signed r base offset]) ∨
        (n = 4 ∧ i ∈ [.load32 r base offset, .load32Signed r base offset]) ∨ (n = 8 ∧ i = .load64 r base offset) →
      (∃ j, j < n ∧ accessAt s.params (s.wrap (s.effAddr base offset).toNat j) = .none) →
      exec i s = .next { s with status := .trapped .memoryAccess }) ∧
    ((n = 1 ∧ i = .store8 r base offset) ∨ (n = 2 ∧ i = .store16 r base offset) ∨
        (n = 4 ∧ i = .store32 r base offset) ∨ (n = 8 ∧ i = .store64 r base offset) →
      (∃ j, j < n ∧ accessAt s.params (s.wrap (s.effAddr base offset).toNat j) ≠ .rw) →
      exec i s = .next { s with status := .trapped .memoryAccess }) ∧
    ((n = 1 ∧ i = .storeImmU8 offset) ∨ (n = 2 ∧ i = .storeImmU16 offset) ∨ (n = 4 ∧ i = .storeImmU32 offset) ∨
        (n = 8 ∧ i = .storeImmU64 offset) →
      (∃ j, j < n ∧ accessAt s.params (s.wrap (s.storeImmAddress offset).toNat j) ≠ .rw) →
      exec i s = .next { s with status := .trapped .memoryAccess })

/-! ## Arithmetic (42_arithmetic.md) -/

/-- The 32-bit add, subtract and multiply work modulo `2^32` on the low 32 bits of `src` and the immediate, and write the
result widened as `ext32` says; no carry enters (rules R150, R151, R153, R155; D3, D31, 90_conflicts.md C1). -/
def Obligations.AddSubMul32 : Prop :=
  ∀ (s : State) (dest src : Reg) (imm : Imm32),
    (∃ t, exec (.add32 dest src imm) s = .next t ∧ KeepsRest s t dest 6 ∧
        t.uval dest = s.widened 32 ((s.lowU 32 src + imm.toNat) % 2 ^ 32)) ∧
      (∃ t, exec (.sub32 dest src imm) s = .next t ∧ KeepsRest s t dest 6 ∧
        t.uval dest = s.widened 32 ((s.lowU 32 src + 2 ^ 32 - imm.toNat) % 2 ^ 32)) ∧
      (∃ t, exec (.mul32 dest src imm) s = .next t ∧ KeepsRest s t dest 6 ∧
        t.uval dest = s.widened 32 (s.lowU 32 src * imm.toNat % 2 ^ 32))

/-- The 64-bit add, subtract and multiply work modulo `2^64` on `src` and the sign-extended immediate
(rules R152, R154, R156). -/
def Obligations.AddSubMul64 : Prop :=
  ∀ (s : State) (dest src : Reg) (imm : Imm32), s.params.mode = .x64 →
    (∃ t, exec (.add64 dest src imm) s = .next t ∧ KeepsRest s t dest 6 ∧
        (t.uval dest : Int) = (s.uval src + imm.toInt) % 2 ^ 64) ∧
      (∃ t, exec (.sub64 dest src imm) s = .next t ∧ KeepsRest s t dest 6 ∧
        (t.uval dest : Int) = (s.uval src - imm.toInt) % 2 ^ 64) ∧
      (∃ t, exec (.mul64 dest src imm) s = .next t ∧ KeepsRest s t dest 6 ∧
        (t.uval dest : Int) = s.uval src * imm.toInt % 2 ^ 64)

/-- The multiply-upper instructions write bits `2*XLEN-1 .. XLEN` of the exact product, `dest` being the signed factor of the
mixed form (rules R157 to R159; D30). -/
def Obligations.MultiplyUpper : Prop :=
  ∀ (s : State) (dest src : Reg),
    (∃ t, exec (.mulUpperSignedSigned dest src) s = .next t ∧ KeepsRest s t dest 2 ∧
        (t.uval dest : Int) = s.sval dest * s.sval src / 2 ^ s.xlen % 2 ^ s.xlen) ∧
      (∃ t, exec (.mulUpperUnsignedUnsigned dest src) s = .next t ∧ KeepsRest s t dest 2 ∧
        t.uval dest = s.uval dest * s.uval src / 2 ^ s.xlen) ∧
      (∃ t, exec (.mulUpperSignedUnsigned dest src) s = .next t ∧ KeepsRest s t dest 2 ∧
        (t.uval dest : Int) = s.sval dest * s.uval src / 2 ^ s.xlen % 2 ^ s.xlen)

/-- A division by a divisor whose low `W` bits are not zero, other than `INT_MIN / -1`, writes the quotient of the low `W`
bits, rounded toward zero when signed (rules R160 to R164; D18, D31). -/
def Obligations.Divisions : Prop :=
  ∀ (s : State) (dest src : Reg),
    (s.lowU 32 src ≠ 0 →
        ∃ t, exec (.divUnsigned32 dest src) s = .next t ∧ KeepsRest s t dest 2 ∧
          t.uval dest = s.widened 32 (s.lowU 32 dest / s.lowU 32 src)) ∧
      (s.lowU 32 src ≠ 0 → ¬ (s.lowS 32 dest = -2 ^ 31 ∧ s.lowS 32 src = -1) →
        ∃ t, exec (.divSigned32 dest src) s = .next t ∧ KeepsRest s t dest 2 ∧
          t.uval dest = s.widened 32 ((s.lowS 32 dest).tdiv (s.lowS 32 src) % 2 ^ 32).toNat) ∧
      (s.params.mode = .x64 → s.uval src ≠ 0 →
        ∃ t, exec (.divUnsigned64 dest src) s = .next t ∧ KeepsRest s t dest 2 ∧
          t.uval dest = s.uval dest / s.uval src) ∧
      (s.params.mode = .x64 → s.uval src ≠ 0 → ¬ (s.sval dest = -2 ^ 63 ∧ s.sval src = -1) →
        ∃ t, exec (.divSigned64 dest src) s = .next t ∧ KeepsRest s t dest 2 ∧
          t.sval dest = (s.sval dest).tdiv (s.sval src))

/-- A remainder, under the same conditions, writes the remainder that goes with the quotient rounded toward zero
(rules R165 to R169; D18, D31). -/
def Obligations.Remainders : Prop :=
  ∀ (s : State) (dest src : Reg),
    (s.lowU 32 src ≠ 0 →
        ∃ t, exec (.remUnsigned32 dest src) s = .next t ∧ KeepsRest s t dest 2 ∧
          t.uval dest = s.widened 32 (s.lowU 32 dest % s.lowU 32 src)) ∧
      (s.lowU 32 src ≠ 0 → ¬ (s.lowS 32 dest = -2 ^ 31 ∧ s.lowS 32 src = -1) →
        ∃ t, exec (.remSigned32 dest src) s = .next t ∧ KeepsRest s t dest 2 ∧
          t.uval dest = s.widened 32 ((s.lowS 32 dest).tmod (s.lowS 32 src) % 2 ^ 32).toNat) ∧
      (s.params.mode = .x64 → s.uval src ≠ 0 →
        ∃ t, exec (.remUnsigned64 dest src) s = .next t ∧ KeepsRest s t dest 2 ∧
          t.uval dest = s.uval dest % s.uval src) ∧
      (s.params.mode = .x64 → s.uval src ≠ 0 → ¬ (s.sval dest = -2 ^ 63 ∧ s.sval src = -1) →
        ∃ t, exec (.remSigned64 dest src) s = .next t ∧ KeepsRest s t dest 2 ∧
          t.sval dest = (s.sval dest).tmod (s.sval src))

/-- Division and remainder by zero trap, and so do the signed ones of `INT_MIN` by -1, on the low `W` bits and with nothing
written (rules R160, R165; for the remainders this is D17, the parameter `RemTrapsLikeDiv`). -/
def Obligations.DivisionTraps : Prop :=
  ∀ (s : State) (dest src : Reg) (W : Nat) (i : Instr), (W = 32 ∨ (W = 64 ∧ s.params.mode = .x64)) →
    (s.lowU W src = 0 →
        i ∈ (if W = 32 then [.divUnsigned32 dest src, .divSigned32 dest src]
          else [.divUnsigned64 dest src, .divSigned64 dest src]) ∨
        (s.params.remTrapsLikeDiv = true ∧
          i ∈ (if W = 32 then [.remUnsigned32 dest src, .remSigned32 dest src]
            else [.remUnsigned64 dest src, .remSigned64 dest src])) →
        exec i s = .next { s with status := .trapped .divisionByZero }) ∧
      (s.lowS W dest = -2 ^ (W - 1) → s.lowS W src = -1 →
        i = (if W = 32 then .divSigned32 dest src else .divSigned64 dest src) ∨
        (s.params.remTrapsLikeDiv = true ∧
          i = (if W = 32 then .remSigned32 dest src else .remSigned64 dest src)) →
        exec i s = .next { s with status := .trapped .divisionOverflow })

/-- With the parameter `RemTrapsLikeDiv` false the two cases of a remainder that have no result are refused by name, as the
spec directs: never a value (93_implementation_defined.md U4, D17). -/
def Obligations.RemaindersWithoutResultAreRefused : Prop :=
  ∀ (s : State) (dest src : Reg), s.params.remTrapsLikeDiv = false →
    (s.lowU 32 src = 0 → exec (.remUnsigned32 dest src) s = .refused .remainderUnspecified) ∧
      (s.lowU 32 src = 0 ∨ (s.lowS 32 dest = -2 ^ 31 ∧ s.lowS 32 src = -1) →
        exec (.remSigned32 dest src) s = .refused .remainderUnspecified) ∧
      (s.params.mode = .x64 → s.uval src = 0 → exec (.remUnsigned64 dest src) s = .refused .remainderUnspecified) ∧
      (s.params.mode = .x64 → s.uval src = 0 ∨ (s.sval dest = -2 ^ 63 ∧ s.sval src = -1) →
        exec (.remSigned64 dest src) s = .refused .remainderUnspecified)

/-- Quotient and remainder belong together: wherever neither traps, dividend = quotient times divisor plus remainder, the
remainder is smaller than the divisor, and its sign is the dividend's (rules R165, R171; D18). -/
def Obligations.QuotientAndRemainderAgree : Prop :=
  ∀ (s q m : State) (dest src : Reg), s.params.mode = .x64 → s.status = .running → q.status = .running →
    m.status = .running → exec (.divSigned64 dest src) s = .next q → exec (.remSigned64 dest src) s = .next m →
    s.sval dest = q.sval dest * s.sval src + m.sval dest ∧ (m.sval dest).natAbs < (s.sval src).natAbs ∧
      (0 < m.sval dest → 0 < s.sval dest) ∧ (m.sval dest < 0 → s.sval dest < 0)

/-! ## Logic and comparison (43_logical.md, 44_comparison.md) -/

/-- The six logical instructions work bit by bit on the whole of `src` and the sign-extended immediate, whose bits above 31
are copies of bit 31 (rules R180 to R186; D6). -/
def Obligations.LogicalInstructions : Prop :=
  ∀ (s : State) (dest src : Reg) (imm : Imm32) (i : Instr) (f : Bool → Bool → Bool),
    (i = .bitwiseAnd dest src imm ∧ f = fun a b => a && b) ∨
      (i = .bitwiseOr dest src imm ∧ f = fun a b => a || b) ∨
      (i = .bitwiseXor dest src imm ∧ f = fun a b => a != b) ∨
      (i = .andInverted dest src imm ∧ f = fun a b => a && !b) ∨
      (i = .orInverted dest src imm ∧ f = fun a b => a || !b) ∨
      (i = .xnor dest src imm ∧ f = fun a b => a == b) →
    ∃ t, exec i s = .next t ∧ KeepsRest s t dest 6 ∧
      ∀ k, k < s.xlen → (t.reg dest).getLsbD k = f ((s.reg src).getLsbD k) (simmBit imm k)

/-- The four comparisons write 1 or 0, comparing a whole register with the sign-extended immediate, read as unsigned in the
unsigned ones; the one-register forms write the register they compare and ignore the offset (rules R190 to R194; D6, D21). -/
def Obligations.Comparisons : Prop :=
  ∀ (s : State) (dest src : Reg) (imm unused : Imm32),
    (∃ t, exec (.setLessThanUnsigned dest src imm) s = .next t ∧ KeepsRest s t dest 6 ∧
        t.uval dest = if s.uval src < s.simmU imm then 1 else 0) ∧
      (∃ t, exec (.setLessThanSigned dest src imm) s = .next t ∧ KeepsRest s t dest 6 ∧
        t.uval dest = if s.sval src < imm.toInt then 1 else 0) ∧
      (∃ t, exec (.setLessThanUnsignedImm dest imm unused) s = .next t ∧ KeepsRest s t dest 10 ∧
        t.uval dest = if s.uval dest < s.simmU imm then 1 else 0) ∧
      (∃ t, exec (.setGreaterThanSignedImm dest imm unused) s = .next t ∧ KeepsRest s t dest 10 ∧
        t.uval dest = if s.sval dest > imm.toInt then 1 else 0)

/-! ## Shifts and rotates (45_shift_rotate.md) -/

/-- The shifts by a register: the distance is the count modulo the width, and the low bits of `dest` are multiplied or divided
by that power of two, the arithmetic right shift rounding down (rules R200 to R206; D3, D19). -/
def Obligations.ShiftsByRegister : Prop :=
  ∀ (s : State) (dest count : Reg) (n m : Nat), n = s.uval count % 32 → m = s.uval count % 64 →
    (∃ t, exec (.shiftLogicalLeft32 dest count) s = .next t ∧ KeepsRest s t dest 2 ∧
        t.uval dest = s.widened 32 (s.lowU 32 dest * 2 ^ n % 2 ^ 32)) ∧
      (∃ t, exec (.shiftLogicalRight32 dest count) s = .next t ∧ KeepsRest s t dest 2 ∧
        t.uval dest = s.widened 32 (s.lowU 32 dest / 2 ^ n)) ∧
      (∃ t, exec (.shiftArithmeticRight32 dest count) s = .next t ∧ KeepsRest s t dest 2 ∧
        t.uval dest = s.widened 32 (s.lowS 32 dest / 2 ^ n % 2 ^ 32).toNat) ∧
      (s.params.mode = .x64 →
        (∃ t, exec (.shiftLogicalLeft64 dest count) s = .next t ∧ KeepsRest s t dest 2 ∧
          t.uval dest = s.uval dest * 2 ^ m % 2 ^ 64) ∧
        (∃ t, exec (.shiftLogicalRight64 dest count) s = .next t ∧ KeepsRest s t dest 2 ∧
          t.uval dest = s.uval dest / 2 ^ m) ∧
        (∃ t, exec (.shiftArithmeticRight64 dest count) s = .next t ∧ KeepsRest s t dest 2 ∧
          t.sval dest = s.sval dest / 2 ^ m))

/-- The shifts by an immediate: as by a register, with the distance in the immediate; the offset is ignored. The premise says
that `alt` does not swap the operands, which is the spec's decision (rules R207 to R213; D19, D20, D21). -/
def Obligations.ShiftsByImmediate : Prop :=
  ∀ (s : State) (reg : Reg) (shift unused : Imm32) (n m : Nat), n = shift.toNat % 32 → m = shift.toNat % 64 →
    s.params.altSwapsOperands = false →
    (∃ t, exec (.shiftLogicalLeftImmAlt32 reg shift unused) s = .next t ∧ KeepsRest s t reg 10 ∧
        t.uval reg = s.widened 32 (s.lowU 32 reg * 2 ^ n % 2 ^ 32)) ∧
      (∃ t, exec (.shiftLogicalRightImmAlt32 reg shift unused) s = .next t ∧ KeepsRest s t reg 10 ∧
        t.uval reg = s.widened 32 (s.lowU 32 reg / 2 ^ n)) ∧
      (∃ t, exec (.shiftArithmeticRightImmAlt32 reg shift unused) s = .next t ∧ KeepsRest s t reg 10 ∧
        t.uval reg = s.widened 32 (s.lowS 32 reg / 2 ^ n % 2 ^ 32).toNat) ∧
      (s.params.mode = .x64 →
        (∃ t, exec (.shiftLogicalLeftImmAlt64 reg shift unused) s = .next t ∧ KeepsRest s t reg 10 ∧
          t.uval reg = s.uval reg * 2 ^ m % 2 ^ 64) ∧
        (∃ t, exec (.shiftLogicalRightImmAlt64 reg shift unused) s = .next t ∧ KeepsRest s t reg 10 ∧
          t.uval reg = s.uval reg / 2 ^ m) ∧
        (∃ t, exec (.shiftArithmeticRightImmAlt64 reg shift unused) s = .next t ∧ KeepsRest s t reg 10 ∧
          t.sval reg = s.sval reg / 2 ^ m))

/-- The 32-bit rotates move the low 32 bits around a ring of 32, the bits that leave at one end entering at the other, and
write the result widened as `ext32` says; the `alt` form is a second spelling (rules R214, R215, R217, R219, R221;
D3, D19, D20). -/
def Obligations.Rotates32 : Prop :=
  ∀ (s : State) (dest count : Reg) (shift unused : Imm32) (n m : Nat), n = s.uval count % 32 → m = shift.toNat % 32 →
    (∃ t, exec (.rotateLeft32 dest count) s = .next t ∧ KeepsRest s t dest 2 ∧
        t.uval dest = s.widened 32 (s.lowU 32 dest * 2 ^ n % 2 ^ 32 + s.lowU 32 dest / 2 ^ (32 - n))) ∧
      (∃ t, exec (.rotateRight32 dest count) s = .next t ∧ KeepsRest s t dest 2 ∧
        t.uval dest = s.widened 32 (s.lowU 32 dest / 2 ^ n + s.lowU 32 dest * 2 ^ (32 - n) % 2 ^ 32)) ∧
      (∃ t, exec (.rotateRightImm32 dest shift unused) s = .next t ∧ KeepsRest s t dest 10 ∧
        t.uval dest = s.widened 32 (s.lowU 32 dest / 2 ^ m + s.lowU 32 dest * 2 ^ (32 - m) % 2 ^ 32)) ∧
      (s.params.altSwapsOperands = false →
        ∃ t, exec (.rotateRightImmAlt32 dest shift unused) s = .next t ∧ KeepsRest s t dest 10 ∧
          t.uval dest = s.widened 32 (s.lowU 32 dest / 2 ^ m + s.lowU 32 dest * 2 ^ (32 - m) % 2 ^ 32))

/-- The 64-bit rotates do the same on a ring of 64 (rules R214, R216, R218, R220, R222; D19, D20). -/
def Obligations.Rotates64 : Prop :=
  ∀ (s : State) (dest count : Reg) (shift unused : Imm32) (n m : Nat), n = s.uval count % 64 → m = shift.toNat % 64 →
    s.params.mode = .x64 →
    (∃ t, exec (.rotateLeft64 dest count) s = .next t ∧ KeepsRest s t dest 2 ∧
        t.uval dest = s.uval dest * 2 ^ n % 2 ^ 64 + s.uval dest / 2 ^ (64 - n)) ∧
      (∃ t, exec (.rotateRight64 dest count) s = .next t ∧ KeepsRest s t dest 2 ∧
        t.uval dest = s.uval dest / 2 ^ n + s.uval dest * 2 ^ (64 - n) % 2 ^ 64) ∧
      (∃ t, exec (.rotateRightImm64 dest shift unused) s = .next t ∧ KeepsRest s t dest 10 ∧
        t.uval dest = s.uval dest / 2 ^ m + s.uval dest * 2 ^ (64 - m) % 2 ^ 64) ∧
      (s.params.altSwapsOperands = false →
        ∃ t, exec (.rotateRightImmAlt64 dest shift unused) s = .next t ∧ KeepsRest s t dest 10 ∧
          t.uval dest = s.uval dest / 2 ^ m + s.uval dest * 2 ^ (64 - m) % 2 ^ 64)

/-- With the parameter `AltSwapsOperands` true the eight `alt` instructions are refused by name, which is the reading of "true"
that the spec calls safe (93_implementation_defined.md U12). -/
def Obligations.SwappedAltFormsAreRefused : Prop :=
  ∀ (s : State) (reg : Reg) (shift unused : Imm32) (i : Instr), s.params.altSwapsOperands = true →
    (i ∈ [.shiftLogicalLeftImmAlt32 reg shift unused, .shiftLogicalRightImmAlt32 reg shift unused,
        .shiftArithmeticRightImmAlt32 reg shift unused, .rotateRightImmAlt32 reg shift unused] ∨
      (s.params.mode = .x64 ∧
        i ∈ [.shiftLogicalLeftImmAlt64 reg shift unused, .shiftLogicalRightImmAlt64 reg shift unused,
          .shiftArithmeticRightImmAlt64 reg shift unused, .rotateRightImmAlt64 reg shift unused])) →
    exec i s = .refused .altOperandsSwapped

/-! ## Conditional moves, minimum and maximum, bit manipulation (46, 47, 48) -/

/-- The conditional moves write the sign-extended immediate when all `XLEN` bits of the tested register are zero, or are not
all zero, and otherwise leave the destination too (rules R230 to R234; D6, D21). -/
def Obligations.ConditionalMoves : Prop :=
  ∀ (s : State) (dest src : Reg) (value unused : Imm32),
    (∃ t, exec (.cmovIfZero dest src value) s = .next t ∧ KeepsRest s t dest 6 ∧
        (s.uval src = 0 → t.uval dest = s.simmU value) ∧ (s.uval src ≠ 0 → t.regs = s.regs)) ∧
      (∃ t, exec (.cmovIfNotZero dest src value) s = .next t ∧ KeepsRest s t dest 6 ∧
        (s.uval src ≠ 0 → t.uval dest = s.simmU value) ∧ (s.uval src = 0 → t.regs = s.regs)) ∧
      (∃ t, exec (.cmovIfZeroImm dest value unused) s = .next t ∧ KeepsRest s t dest 10 ∧
        (s.uval dest = 0 → t.uval dest = s.simmU value) ∧ (s.uval dest ≠ 0 → t.regs = s.regs)) ∧
      (∃ t, exec (.cmovIfNotZeroImm dest value unused) s = .next t ∧ KeepsRest s t dest 10 ∧
        (s.uval dest ≠ 0 → t.uval dest = s.simmU value) ∧ (s.uval dest = 0 → t.regs = s.regs))

/-- The maximum and minimum of `src` and the sign-extended immediate, signed or read as unsigned (rules R240 to R244; D6). -/
def Obligations.MinimumAndMaximum : Prop :=
  ∀ (s : State) (dest src : Reg) (imm : Imm32),
    (∃ t, exec (.maximum dest src imm) s = .next t ∧ KeepsRest s t dest 6 ∧
        t.sval dest = max (s.sval src) imm.toInt) ∧
      (∃ t, exec (.maximumUnsigned dest src imm) s = .next t ∧ KeepsRest s t dest 6 ∧
        t.uval dest = max (s.uval src) (s.simmU imm)) ∧
      (∃ t, exec (.minimum dest src imm) s = .next t ∧ KeepsRest s t dest 6 ∧
        t.sval dest = min (s.sval src) imm.toInt) ∧
      (∃ t, exec (.minimumUnsigned dest src imm) s = .next t ∧ KeepsRest s t dest 6 ∧
        t.uval dest = min (s.uval src) (s.simmU imm))

/-- The count of leading zeros of a `W`-bit value: it is `W` for 0, and otherwise the value lies between two powers of two
(rules R250 to R252). -/
def Obligations.LeadingZeroCounts : Prop :=
  ∀ (s : State) (reg : Reg) (W : Nat) (i : Instr),
    (W = 32 ∧ i = .countLeadingZeroBits32 reg) ∨
      (W = 64 ∧ i = .countLeadingZeroBits64 reg ∧ s.params.mode = .x64) →
    ∃ t, exec i s = .next t ∧ KeepsRest s t reg 2 ∧ t.uval reg ≤ W ∧ s.lowU W reg < 2 ^ (W - t.uval reg) ∧
      (t.uval reg < W → 2 ^ (W - t.uval reg - 1) ≤ s.lowU W reg)

/-- The count of trailing zeros of a `W`-bit value: it is `W` for 0, and otherwise the greatest power of two that divides the
value; the 64-bit form is invalid at `XLEN = 32` (rules R253, R254). -/
def Obligations.TrailingZeroCounts : Prop :=
  ∀ (s : State) (reg : Reg) (W : Nat) (i : Instr) (opcode : Byte),
    (W = 32 ∧ i = .countTrailingZeroBits32 reg ∧ opcode = 0x6A) ∨
      (W = 64 ∧ i = .countTrailingZeroBits64 reg ∧ opcode = 0x6B) →
    encode i = [opcode, BitVec.ofNat 8 (regNum reg)] ∧
      (W = 64 → s.params.mode = .x32 → exec i s = .next { s with status := .trapped .invalidInstruction }) ∧
      ((W = 64 → s.params.mode = .x64) →
        ∃ t, exec i s = .next t ∧ KeepsRest s t reg 2 ∧ (s.lowU W reg = 0 → t.uval reg = W) ∧
          (s.lowU W reg ≠ 0 → 2 ^ t.uval reg ∣ s.lowU W reg ∧ ¬ 2 ^ (t.uval reg + 1) ∣ s.lowU W reg))

/-- `count_ones` counts the 1 bits of the whole register, and `swap_bytes` puts byte `XLEN/8 - 1 - i` in the place of byte `i`,
the bits of a byte keeping their order (rules R255, R256; D35). -/
def Obligations.CountOnesAndSwapBytes : Prop :=
  ∀ (s : State) (reg : Reg),
    (∃ t, exec (.countOnes reg) s = .next t ∧ KeepsRest s t reg 2 ∧
        t.uval reg = ((List.range s.xlen).filter (fun k => (s.reg reg).getLsbD k)).length) ∧
      (∃ t, exec (.swapBytes reg) s = .next t ∧ KeepsRest s t reg 2 ∧
        ∀ i j, i < s.xlen / 8 → j < 8 →
          (t.reg reg).getLsbD (8 * i + j) = (s.reg reg).getLsbD (8 * (s.xlen / 8 - 1 - i) + j))

/-! ## Special instructions (49_special.md) -/

/-- `move_reg` is two bytes in the reference codec, `dest` in the low nibble of the second; it copies all `XLEN` bits and
leaves the source (rule R261). -/
def Obligations.MoveRegister : Prop :=
  ∀ (s : State) (dest src : Reg),
    encode (.moveReg dest src) = [0x64, BitVec.ofNat 8 (regNum dest + 16 * regNum src)] ∧
      ∃ t, exec (.moveReg dest src) s = .next t ∧ KeepsRest s t dest 2 ∧ t.uval dest = s.uval src

/-- `memcpy` of accessible blocks that coincide or share no address copies `x[A2]` bytes from the first register's address to
the second's and changes nothing else; a count of 0 cannot trap (rule R262; D27). -/
def Obligations.MemcpyCopies : Prop :=
  ∀ (s : State) (src dest : Reg) (n : Nat), n = s.uval .a2 →
    (∀ i, i < n → accessAt s.params (s.wrap (s.uval src) i) ≠ .none) →
    (∀ i, i < n → accessAt s.params (s.wrap (s.uval dest) i) = .rw) →
    (s.uval src = s.uval dest ∨
      ∀ i j, i < n → j < n → s.wrap (s.uval src) i ≠ s.wrap (s.uval dest) j) →
    ∃ t, exec (.memcpy src dest) s = .next t ∧ KeepsRegs s t (block (s.reg dest) n) 2 ∧
      t.freeCount = s.freeCount ∧
      ∀ i, i < n → t.mem.read (s.wrap (s.uval dest) i) = s.mem.read (s.wrap (s.uval src) i)

/-- `memcpy` of accessible blocks that meet without coinciding runs, and changes no register and no byte outside the
destination; of the bytes inside it nothing is said (rule R262, 93_implementation_defined.md U5, assumption log 12). -/
def Obligations.MemcpyOfOverlappingBlocks : Prop :=
  ∀ (s : State) (src dest : Reg) (n : Nat), n = s.uval .a2 →
    (∀ i, i < n → accessAt s.params (s.wrap (s.uval src) i) ≠ .none) →
    (∀ i, i < n → accessAt s.params (s.wrap (s.uval dest) i) = .rw) →
    s.uval src ≠ s.uval dest →
    (∃ i j, i < n ∧ j < n ∧ s.wrap (s.uval src) i = s.wrap (s.uval dest) j) →
    ∃ t, exec (.memcpy src dest) s = .next t ∧ KeepsRegs s t (block (s.reg dest) n) 2

/-- `memset` of a writable block puts the low byte of A1 in each of its `x[A2]` bytes and changes nothing else; a count of 0
cannot trap (rule R263; D27). -/
def Obligations.MemsetFills : Prop :=
  ∀ (s : State) (n : Nat), n = s.uval .a2 →
    (∀ i, i < n → accessAt s.params (s.wrap (s.uval .a0) i) = .rw) →
    ∃ t, exec .memset s = .next t ∧ KeepsRegs s t (block (s.reg .a0) n) 1 ∧ t.freeCount = s.freeCount ∧
      ∀ i, i < n → (t.mem.read (s.wrap (s.uval .a0) i)).toNat = s.uval .a1 % 256

/-- `memcpy` and `memset` with a byte that is not accessible trap before anything is written (rules R262, R263,
20_memory.md rule R56; D27). -/
def Obligations.BlockTrapsWriteNothing : Prop :=
  ∀ (s : State) (src dest : Reg),
    ((∃ i, i < s.uval .a2 ∧ (accessAt s.params (s.wrap (s.uval src) i) = .none ∨
        accessAt s.params (s.wrap (s.uval dest) i) ≠ .rw)) →
      exec (.memcpy src dest) s = .next { s with status := .trapped .memoryAccess }) ∧
    ((∃ i, i < s.uval .a2 ∧ accessAt s.params (s.wrap (s.uval .a0) i) ≠ .rw) →
      exec .memset s = .next { s with status := .trapped .memoryAccess })
end

