-- ==== Sys2Proof/Laws/Memory.lean ====
section
/-! SUPPORT. The laws of data memory: a read after a write, what a write leaves alone, and the canonical form that every
memory operation keeps. -/

namespace Sys2Proof.Machine

/-! ## Reading after writing -/

theorem Memory.read_filter_self (m : Memory) (a : Nat) :
    Memory.read (m.filter (fun c => c.1 != a)) a = unlistedByte := by
  induction m with
  | nil => rfl
  | cons c rest ih =>
    by_cases h : c.1 = a
    · simpa [List.filter_cons, h] using ih
    · simpa [List.filter_cons, h, Memory.read] using ih

theorem Memory.read_filter_other (m : Memory) {a x : Nat} (hx : x ≠ a) :
    Memory.read (m.filter (fun c => c.1 != a)) x = m.read x := by
  induction m with
  | nil => rfl
  | cons c rest ih =>
    by_cases h : c.1 = a
    · have hc : c.1 ≠ x := fun e => hx (e.symm.trans h)
      simpa [List.filter_cons, h, Memory.read, Ne.symm hx] using ih
    · by_cases hc : c.1 = x
      · subst hc
        simp [h, Memory.read]
      · simpa [List.filter_cons, h, Memory.read, hc] using ih

theorem Memory.read_insert_self (m : Memory) (a : Nat) (b : Byte) : (m.insert a b).read a = b := by
  induction m with
  | nil => simp [Memory.insert, Memory.read]
  | cons c rest ih =>
    unfold Memory.insert
    split
    · simp [Memory.read]
    · split
      · simp [Memory.read]
      · rename_i h1 h2
        simpa [Memory.read, Ne.symm h2] using ih

theorem Memory.read_insert_other (m : Memory) {a x : Nat} (b : Byte) (hx : x ≠ a) :
    (m.insert a b).read x = m.read x := by
  induction m with
  | nil => simp [Memory.insert, Memory.read, Ne.symm hx]
  | cons c rest ih =>
    unfold Memory.insert
    split
    · simp [Memory.read, Ne.symm hx]
    · split
      · rename_i h1 h2
        have hc : c.1 ≠ x := fun e => hx (e.symm.trans h2.symm)
        simp [Memory.read, Ne.symm hx, hc]
      · by_cases hc : c.1 = x
        · simp [Memory.read, hc]
        · simpa [Memory.read, hc] using ih

/-- A byte just written reads back. -/
@[simp] theorem Memory.read_write_self (m : Memory) (a : Nat) (b : Byte) : (m.write a b).read a = b := by
  unfold Memory.write
  split
  · rename_i h
    rw [Memory.read_filter_self, h]
  · exact Memory.read_insert_self m a b

/-- A write leaves every other address alone. -/
theorem Memory.read_write_other (m : Memory) {a x : Nat} (b : Byte) (hx : x ≠ a) :
    (m.write a b).read x = m.read x := by
  unfold Memory.write
  split
  · exact Memory.read_filter_other m hx
  · exact Memory.read_insert_other m b hx

@[simp] theorem Memory.writeAll_nil (m : Memory) : m.writeAll [] = m := rfl

@[simp] theorem Memory.writeAll_cons (m : Memory) (c : Host.Cell) (cells : List Host.Cell) :
    m.writeAll (c :: cells) = (m.write c.1 c.2).writeAll cells := rfl

/-- An address that is not among the cells written keeps its byte. -/
theorem Memory.read_writeAll_other (m : Memory) (cells : List Host.Cell) {x : Nat}
    (hx : x ∉ cells.map Prod.fst) : (m.writeAll cells).read x = m.read x := by
  induction cells generalizing m with
  | nil => rfl
  | cons c cells ih =>
    simp only [List.map_cons, List.mem_cons, not_or] at hx
    rw [Memory.writeAll_cons, ih _ hx.2, Memory.read_write_other m c.2 hx.1]

/-- A cell written once, among distinct addresses, reads back. -/
theorem Memory.read_writeAll_mem (m : Memory) (cells : List Host.Cell) {x : Nat} {b : Byte}
    (hnd : (cells.map Prod.fst).Nodup) (hx : (x, b) ∈ cells) : (m.writeAll cells).read x = b := by
  induction cells generalizing m with
  | nil => cases hx
  | cons c cells ih =>
    simp only [List.map_cons, List.nodup_cons] at hnd
    rw [Memory.writeAll_cons]
    rcases List.mem_cons.1 hx with h | h
    · subst h
      rw [Memory.read_writeAll_other _ _ hnd.1, Memory.read_write_self]
    · exact ih _ hnd.2 h

/-! ## The canonical form -/

/-- The canonical form, said of the head and of the rest. -/
theorem Memory.wf_cons (c : Host.Cell) (m : Memory) :
    Memory.wf (c :: m) = true ↔ c.2 ≠ unlistedByte ∧ (∀ d ∈ m, c.1 < d.1) ∧ Memory.wf m = true := by
  induction m generalizing c with
  | nil => simp [Memory.wf]
  | cons d m ih =>
    simp only [Memory.wf, Bool.and_eq_true, bne_iff_ne, ne_eq, decide_eq_true_eq, List.mem_cons, forall_eq_or_imp]
    constructor
    · rintro ⟨⟨h1, h2⟩, h3⟩
      exact ⟨h1, ⟨h2, fun e he => Nat.lt_trans h2 (((ih d).1 h3).2.1 e he)⟩, h3⟩
    · rintro ⟨h1, ⟨h2, -⟩, h3⟩
      exact ⟨⟨h1, h2⟩, h3⟩

theorem Memory.wf_filter (m : Memory) (a : Nat) (h : m.wf = true) :
    Memory.wf (m.filter (fun c => c.1 != a)) = true := by
  induction m with
  | nil => rfl
  | cons c m ih =>
    have hc := (Memory.wf_cons c m).1 h
    by_cases e : c.1 = a
    · simpa [List.filter_cons, e] using ih hc.2.2
    · have : (c :: m).filter (fun c => c.1 != a) = c :: m.filter (fun c => c.1 != a) := by simp [e]
      rw [this, Memory.wf_cons]
      exact ⟨hc.1, fun d hd => hc.2.1 d (List.mem_filter.1 hd).1, ih hc.2.2⟩

theorem Memory.mem_insert (m : Memory) (a : Nat) (b : Byte) {c : Host.Cell} (h : c ∈ m.insert a b) :
    c = (a, b) ∨ c ∈ m := by
  induction m with
  | nil => simpa [Memory.insert] using h
  | cons d m ih =>
    unfold Memory.insert at h
    split at h
    · simpa using h
    · split at h
      · rcases List.mem_cons.1 h with h | h
        · exact .inl h
        · exact .inr (List.mem_cons_of_mem _ h)
      · rcases List.mem_cons.1 h with h | h
        · exact .inr (h ▸ List.mem_cons_self)
        · exact (ih h).imp id (List.mem_cons_of_mem _)

theorem Memory.wf_insert (m : Memory) (a : Nat) {b : Byte} (hb : b ≠ unlistedByte) (h : m.wf = true) :
    (m.insert a b).wf = true := by
  induction m with
  | nil => simpa [Memory.insert, Memory.wf] using hb
  | cons c m ih =>
    have hc := (Memory.wf_cons c m).1 h
    unfold Memory.insert
    split
    · rename_i hlt
      refine (Memory.wf_cons _ _).2 ⟨hb, fun d hd => ?_, h⟩
      rcases List.mem_cons.1 hd with e | e
      · exact e ▸ hlt
      · exact Nat.lt_trans hlt (hc.2.1 d e)
    · split
      · rename_i he
        exact (Memory.wf_cons _ _).2 ⟨hb, fun d hd => he ▸ hc.2.1 d hd, hc.2.2⟩
      · rename_i h1 h2
        refine (Memory.wf_cons _ _).2 ⟨hc.1, fun d hd => ?_, ih hc.2.2⟩
        rcases Memory.mem_insert m a b hd with e | e
        · subst e
          show c.1 < a
          omega
        · exact hc.2.1 d e

/-- A write keeps the canonical form. -/
theorem Memory.wf_write (m : Memory) (a : Nat) (b : Byte) (h : m.wf = true) : (m.write a b).wf = true := by
  unfold Memory.write
  split
  · exact Memory.wf_filter m a h
  · rename_i hb
    exact Memory.wf_insert m a hb h

/-- Any number of writes keep the canonical form. -/
theorem Memory.wf_writeAll (m : Memory) (cells : List Host.Cell) (h : m.wf = true) :
    (m.writeAll cells).wf = true := by
  induction cells generalizing m with
  | nil => exact h
  | cons c cells ih => exact ih _ (Memory.wf_write m c.1 c.2 h)

/-- After a write an address is listed only if it was listed or was written. -/
theorem Memory.mem_write (m : Memory) (a : Nat) (b : Byte) {c : Host.Cell} (h : c ∈ m.write a b) :
    c = (a, b) ∨ c ∈ m := by
  unfold Memory.write at h
  split at h
  · exact .inr (List.mem_filter.1 h).1
  · exact Memory.mem_insert m a b h

theorem Memory.mem_writeAll (m : Memory) (cells : List Host.Cell) {c : Host.Cell} (h : c ∈ m.writeAll cells) :
    c ∈ cells ∨ c ∈ m := by
  induction cells generalizing m with
  | nil => exact .inr h
  | cons d cells ih =>
    rcases ih _ h with h | h
    · exact .inl (List.mem_cons_of_mem _ h)
    · rcases Memory.mem_write m d.1 d.2 h with h | h
      · exact .inl (h ▸ List.mem_cons_self)
      · exact .inr h

/-- The memory of State.reset is in canonical form. -/
theorem Memory.wf_reset : State.reset.mem.wf = true := rfl

/-! ## Blocks -/

@[simp] theorem block_length {w : Nat} (a : BitVec w) (n : Nat) : (block a n).length = n := by
  simp [block]

theorem mem_block {w : Nat} (a : BitVec w) (n x : Nat) :
    x ∈ block a n ↔ ∃ i, i < n ∧ x = (a.toNat + i) % 2 ^ w := by
  simp only [block, List.mem_map, List.mem_range]
  exact ⟨fun ⟨i, hi, e⟩ => ⟨i, hi, e.symm⟩, fun ⟨i, hi, e⟩ => ⟨i, hi, e.symm⟩⟩

/-- Two offsets below `2^w` that reach one address modulo `2^w` are equal. -/
theorem offset_inj {a i j M : Nat} (hi : i < M) (hj : j < M) (h : (a + i) % M = (a + j) % M) : i = j := by
  have h' : i ≡ j [MOD M] := Nat.ModEq.add_left_cancel' a h
  rwa [Nat.ModEq, Nat.mod_eq_of_lt hi, Nat.mod_eq_of_lt hj] at h'

/-- A block no longer than the address space names each address once. -/
theorem block_nodup {w : Nat} (a : BitVec w) {n : Nat} (hn : n ≤ 2 ^ w) : (block a n).Nodup := by
  refine List.Nodup.map_on (fun i hi j hj h => ?_) List.nodup_range
  rw [List.mem_range] at hi hj
  exact offset_inj (by omega) (by omega) h

theorem block_zip_fst {w : Nat} (a : BitVec w) (bs : List Byte) :
    ((block a bs.length).zip bs).map Prod.fst = block a bs.length :=
  List.map_fst_zip (by simp)

/-- Outside the block, bytes put into memory change nothing. -/
theorem read_putBytes_other (s : State) (a : BitVec s.xlen) (bs : List Byte) {x : Nat}
    (hx : x ∉ block a bs.length) : (s.putBytes a bs).mem.read x = s.mem.read x := by
  show (s.mem.writeAll ((block a bs.length).zip bs)).read x = s.mem.read x
  exact Memory.read_writeAll_other _ _ (by rwa [block_zip_fst])

/-- Inside the block, the i-th byte put there is read back. -/
theorem read_putBytes_at (s : State) (a : BitVec s.xlen) (bs : List Byte) (hn : bs.length ≤ 2 ^ s.xlen)
    {i : Nat} (hi : i < bs.length) : (s.putBytes a bs).mem.read ((a.toNat + i) % 2 ^ s.xlen) = bs[i] := by
  refine Memory.read_writeAll_mem _ _ (by rw [block_zip_fst]; exact block_nodup a hn) ?_
  rw [List.mem_iff_getElem]
  exact ⟨i, by simpa using hi, by simp [block]⟩

/-! ## The two memory primitives, said once -/

/-- `MemRead` answers only when every byte is readable, and then with those bytes (20_memory.md rule R44). -/
theorem memRead_cases (s : State) (a : BitVec s.xlen) (n : Nat) :
    (s.canRead a n = true ∧
        s.memRead a n = .ok (BitVec.ofNat (8 * n) (bytesValue ((block a n).map s.mem.read)))) ∨
      (s.canRead a n = false ∧ s.memRead a n = .error .memoryAccess) := by
  unfold State.memRead
  cases h : s.canRead a n <;> simp

/-- `MemWrite` answers only when every byte is writable, and otherwise writes nothing (20_memory.md rule R45). -/
theorem memWrite_cases (s : State) (a : BitVec s.xlen) (n : Nat) (v : BitVec (8 * n)) :
    (s.canWrite a n = true ∧ s.memWrite a n v = .ok (s.putBytes a (valueBytes v n))) ∨
      (s.canWrite a n = false ∧ s.memWrite a n v = .error .memoryAccess) := by
  unfold State.memWrite
  cases h : s.canWrite a n <;> simp

end Sys2Proof.Machine
end

