-- ==== Sys2Proof/Laws/State.lean ====
section
/-! SUPPORT. One lemma per field per update of State, and the register file's read-after-write laws. -/

namespace Sys2Proof.Machine

/-! ## The register file -/

@[simp] theorem RegFile.get_set_self (f : RegFile) (r : Reg) (v : Word) : (f.set r v).get r = v := by
  cases r <;> rfl

theorem RegFile.get_set_other (f : RegFile) {r d : Reg} (v : Word) (h : r ≠ d) : (f.set d v).get r = f.get r := by
  cases d <;> cases r <;> first | rfl | exact absurd rfl h

@[simp] theorem RegFile.get_cut (f : RegFile) (n : Nat) (r : Reg) :
    (f.cut n).get r = ((f.get r).setWidth n).setWidth 64 := by
  cases r <;> rfl

/-! ## `x[r] <- v` -/

@[simp] theorem setReg_params (s : State) (r : Reg) (v : BitVec s.xlen) : (s.setReg r v).params = s.params := rfl
@[simp] theorem setReg_regs (s : State) (r : Reg) (v : BitVec s.xlen) :
    (s.setReg r v).regs = s.regs.set r (v.setWidth 64) := rfl
@[simp] theorem setReg_pc (s : State) (r : Reg) (v : BitVec s.xlen) : (s.setReg r v).pc = s.pc := rfl
@[simp] theorem setReg_mem (s : State) (r : Reg) (v : BitVec s.xlen) : (s.setReg r v).mem = s.mem := rfl
@[simp] theorem setReg_status (s : State) (r : Reg) (v : BitVec s.xlen) : (s.setReg r v).status = s.status := rfl
@[simp] theorem setReg_hostAnswers (s : State) (r : Reg) (v : BitVec s.xlen) :
    (s.setReg r v).hostAnswers = s.hostAnswers := rfl
@[simp] theorem setReg_freeCount (s : State) (r : Reg) (v : BitVec s.xlen) :
    (s.setReg r v).freeCount = s.freeCount := rfl

/-! ## `pc <- t` -/

@[simp] theorem setPc_params (s : State) (t : Nat) : (s.setPc t).params = s.params := rfl
@[simp] theorem setPc_regs (s : State) (t : Nat) : (s.setPc t).regs = s.regs := rfl
@[simp] theorem setPc_pc (s : State) (t : Nat) : (s.setPc t).pc = t := rfl
@[simp] theorem setPc_mem (s : State) (t : Nat) : (s.setPc t).mem = s.mem := rfl
@[simp] theorem setPc_status (s : State) (t : Nat) : (s.setPc t).status = s.status := rfl
@[simp] theorem setPc_hostAnswers (s : State) (t : Nat) : (s.setPc t).hostAnswers = s.hostAnswers := rfl
@[simp] theorem setPc_freeCount (s : State) (t : Nat) : (s.setPc t).freeCount = s.freeCount := rfl

@[simp] theorem advance_params (s : State) (f : Format) : (s.advance f).params = s.params := rfl
@[simp] theorem advance_regs (s : State) (f : Format) : (s.advance f).regs = s.regs := rfl
@[simp] theorem advance_pc (s : State) (f : Format) : (s.advance f).pc = s.pc + s.len (formatLength f) := rfl
@[simp] theorem advance_mem (s : State) (f : Format) : (s.advance f).mem = s.mem := rfl
@[simp] theorem advance_status (s : State) (f : Format) : (s.advance f).status = s.status := rfl
@[simp] theorem advance_hostAnswers (s : State) (f : Format) : (s.advance f).hostAnswers = s.hostAnswers := rfl
@[simp] theorem advance_freeCount (s : State) (f : Format) : (s.advance f).freeCount = s.freeCount := rfl

/-! ## `len` -/

@[simp] theorem setReg_len (s : State) (r : Reg) (v : BitVec s.xlen) (n : Nat) : (s.setReg r v).len n = s.len n := rfl
@[simp] theorem putBytes_len (s : State) (a : BitVec s.xlen) (bs : List Byte) (n : Nat) :
    (s.putBytes a bs).len n = s.len n := rfl
@[simp] theorem drawFree_len (s : State) (k n : Nat) : (s.drawFree k).len n = s.len n := rfl
@[simp] theorem trap_len (s : State) (r : TrapReason) (n : Nat) : (s.trap r).len n = s.len n := rfl

/-- Under the reference codec the format alone gives the length (30_encoding.md rule R70). -/
theorem len_reference {s : State} (h : s.params.codec = .reference) (n : Nat) : s.len n = n := by
  simp [State.len, h]

/-- Under another codec the length is the one it gives the offset `pc`. -/
theorem len_table {s : State} {entries : List CodecEntry} {e : CodecEntry} (h : s.params.codec = .table entries)
    (he : entryAt entries s.pc = some e) (n : Nat) : s.len n = e.len := by
  simp [State.len, h, he]

/-! ## Status -/

@[simp] theorem trap_params (s : State) (r : TrapReason) : (s.trap r).params = s.params := rfl
@[simp] theorem trap_regs (s : State) (r : TrapReason) : (s.trap r).regs = s.regs := rfl
@[simp] theorem trap_pc (s : State) (r : TrapReason) : (s.trap r).pc = s.pc := rfl
@[simp] theorem trap_mem (s : State) (r : TrapReason) : (s.trap r).mem = s.mem := rfl
@[simp] theorem trap_status (s : State) (r : TrapReason) : (s.trap r).status = .trapped r := rfl
@[simp] theorem trap_hostAnswers (s : State) (r : TrapReason) : (s.trap r).hostAnswers = s.hostAnswers := rfl
@[simp] theorem trap_freeCount (s : State) (r : TrapReason) : (s.trap r).freeCount = s.freeCount := rfl

@[simp] theorem enterHostCall_params (s : State) (k : Nat) : (s.enterHostCall k).params = s.params := rfl
@[simp] theorem enterHostCall_regs (s : State) (k : Nat) : (s.enterHostCall k).regs = s.regs := rfl
@[simp] theorem enterHostCall_pc (s : State) (k : Nat) : (s.enterHostCall k).pc = s.pc := rfl
@[simp] theorem enterHostCall_mem (s : State) (k : Nat) : (s.enterHostCall k).mem = s.mem := rfl
@[simp] theorem enterHostCall_status (s : State) (k : Nat) : (s.enterHostCall k).status = .inHostCall k := rfl
@[simp] theorem enterHostCall_hostAnswers (s : State) (k : Nat) :
    (s.enterHostCall k).hostAnswers = s.hostAnswers := rfl
@[simp] theorem enterHostCall_freeCount (s : State) (k : Nat) : (s.enterHostCall k).freeCount = s.freeCount := rfl

/-! ## Memory and the counter of free bytes -/

@[simp] theorem setMem_params (s : State) (m : Memory) : (s.setMem m).params = s.params := rfl
@[simp] theorem setMem_regs (s : State) (m : Memory) : (s.setMem m).regs = s.regs := rfl
@[simp] theorem setMem_pc (s : State) (m : Memory) : (s.setMem m).pc = s.pc := rfl
@[simp] theorem setMem_mem (s : State) (m : Memory) : (s.setMem m).mem = m := rfl
@[simp] theorem setMem_status (s : State) (m : Memory) : (s.setMem m).status = s.status := rfl
@[simp] theorem setMem_hostAnswers (s : State) (m : Memory) : (s.setMem m).hostAnswers = s.hostAnswers := rfl
@[simp] theorem setMem_freeCount (s : State) (m : Memory) : (s.setMem m).freeCount = s.freeCount := rfl

@[simp] theorem putBytes_params (s : State) (a : BitVec s.xlen) (bs : List Byte) :
    (s.putBytes a bs).params = s.params := rfl
@[simp] theorem putBytes_regs (s : State) (a : BitVec s.xlen) (bs : List Byte) :
    (s.putBytes a bs).regs = s.regs := rfl
@[simp] theorem putBytes_pc (s : State) (a : BitVec s.xlen) (bs : List Byte) : (s.putBytes a bs).pc = s.pc := rfl
@[simp] theorem putBytes_mem (s : State) (a : BitVec s.xlen) (bs : List Byte) :
    (s.putBytes a bs).mem = s.mem.writeAll ((block a bs.length).zip bs) := rfl
@[simp] theorem putBytes_status (s : State) (a : BitVec s.xlen) (bs : List Byte) :
    (s.putBytes a bs).status = s.status := rfl
@[simp] theorem putBytes_hostAnswers (s : State) (a : BitVec s.xlen) (bs : List Byte) :
    (s.putBytes a bs).hostAnswers = s.hostAnswers := rfl
@[simp] theorem putBytes_freeCount (s : State) (a : BitVec s.xlen) (bs : List Byte) :
    (s.putBytes a bs).freeCount = s.freeCount := rfl

@[simp] theorem drawFree_params (s : State) (n : Nat) : (s.drawFree n).params = s.params := rfl
@[simp] theorem drawFree_regs (s : State) (n : Nat) : (s.drawFree n).regs = s.regs := rfl
@[simp] theorem drawFree_pc (s : State) (n : Nat) : (s.drawFree n).pc = s.pc := rfl
@[simp] theorem drawFree_mem (s : State) (n : Nat) : (s.drawFree n).mem = s.mem := rfl
@[simp] theorem drawFree_status (s : State) (n : Nat) : (s.drawFree n).status = s.status := rfl
@[simp] theorem drawFree_hostAnswers (s : State) (n : Nat) : (s.drawFree n).hostAnswers = s.hostAnswers := rfl
@[simp] theorem drawFree_freeCount (s : State) (n : Nat) : (s.drawFree n).freeCount = s.freeCount + n := rfl

/-- A written register reads back as it was written: no register is hard-wired (10_state.md rule R21). -/
theorem reg_setReg_self (s : State) (r : Reg) (v : BitVec s.xlen) : (s.setReg r v).reg r = v := by
  have hw : s.xlen ≤ 64 := by
    show s.params.mode.width ≤ 64
    cases s.params.mode <;> decide
  show (((s.regs.set r (v.setWidth 64)).get r).setWidth s.xlen : BitVec s.xlen) = v
  rw [RegFile.get_set_self, BitVec.setWidth_setWidth_of_le v hw]
  exact BitVec.setWidth_eq v

end Sys2Proof.Machine
end

