-- ==== Sys2Proof/Laws/Ops.lean ====
section
/-! SUPPORT. One lemma per shared operation that says once everything it can do, and `exec_effect`, which says once
everything an instruction can do. Proofs cite these and do not unfold the operations. -/

namespace Sys2Proof.Machine

/-- `Jump(t)` goes to a valid target or traps (40_control_flow_and_branch.md rule R101). -/
theorem jumpTo_cases (t : Int) (s : State) :
    (validTarget s.params t = true ∧ jumpTo t s = .next (s.setPc t.toNat)) ∨
      (validTarget s.params t = false ∧ jumpTo t s = .next (s.trap .invalidTarget)) := by
  unfold jumpTo raise
  cases h : validTarget s.params t <;> simp

/-- A 64-bit form runs in 64-bit mode and traps in 32-bit mode (30_encoding.md rule R80). -/
theorem in64_cases (s : State) (k : Result) :
    (s.params.mode = .x64 ∧ in64 s k = k) ∨
      (s.params.mode = .x32 ∧ in64 s k = .next (s.trap .invalidInstruction)) := by
  unfold in64 raise
  cases s.params.mode <;> simp

theorem in64_x64 {s : State} (h : s.params.mode = .x64) (k : Result) : in64 s k = k := by
  simp [in64, h]

theorem in64_x32 {s : State} (h : s.params.mode = .x32) (k : Result) :
    in64 s k = .next (s.trap .invalidInstruction) := by
  simp [in64, raise, h]

/-- An `alt` form runs unless the parameter swaps its operands (93_implementation_defined.md U12). -/
theorem altForm_cases (s : State) (k : Result) :
    (s.params.altSwapsOperands = false ∧ altForm s k = k) ∨
      (s.params.altSwapsOperands = true ∧ altForm s k = .refused .altOperandsSwapped) := by
  unfold altForm
  cases s.params.altSwapsOperands <;> simp

/-- A branch jumps when its condition holds and falls through when it does not (rule R106). -/
theorem branch_cases (c : Cond) (r1 r2 : Reg) (off : Imm32) (s : State) :
    (condHolds c (s.reg r1) (s.reg r2) = true ∧ branch c r1 r2 off s = jumpTo (s.pc + off.toInt) s) ∨
      (condHolds c (s.reg r1) (s.reg r2) = false ∧
        branch c r1 r2 off s = .next (s.advance .regRegOffset)) := by
  unfold branch finish
  cases condHolds c (s.reg r1) (s.reg r2) <;> simp

/-- A division traps as `divTrap` says and otherwise writes the quotient (42_arithmetic.md rule R160). -/
theorem divide_cases (W : Nat) (signed : Bool) (dest src : Reg) (s : State) :
    (∃ r, divTrap signed (s.low W dest) (s.low W src) = some r ∧
        divide W signed dest src s = .next (s.trap r)) ∨
      (divTrap signed (s.low W dest) (s.low W src) = none ∧
        divide W signed dest src s =
          .next ((s.setReg dest (s.res (quotient signed (s.low W dest) (s.low W src)))).advance .regReg)) := by
  unfold divide raise writeReg
  cases divTrap signed (s.low W dest) (s.low W src) <;> simp

/-- A remainder traps as the division does, refuses those cases when the parameter says it does not trap, and otherwise
writes the remainder (42_arithmetic.md rule R165). -/
theorem remain_cases (W : Nat) (signed : Bool) (dest src : Reg) (s : State) :
    (∃ r, divTrap signed (s.low W dest) (s.low W src) = some r ∧ s.params.remTrapsLikeDiv = true ∧
        remain W signed dest src s = .next (s.trap r)) ∨
      (∃ r, divTrap signed (s.low W dest) (s.low W src) = some r ∧ s.params.remTrapsLikeDiv = false ∧
        remain W signed dest src s = .refused .remainderUnspecified) ∨
      (divTrap signed (s.low W dest) (s.low W src) = none ∧
        remain W signed dest src s =
          .next ((s.setReg dest (s.res (remainder signed (s.low W dest) (s.low W src)))).advance .regReg)) := by
  unfold remain raise writeReg
  cases divTrap signed (s.low W dest) (s.low W src) <;> cases s.params.remTrapsLikeDiv <;> simp

/-- A zero-extending load writes its register or traps with nothing written (41_load_store.md rule R126). -/
theorem loadZero_cases (n : Nat) (dest base : Reg) (offset : Imm32) (s : State) :
    (s.canRead (s.effAddr base offset) n = true ∧
        loadZero n dest base offset s = .next ((s.setReg dest
          ((BitVec.ofNat (8 * n) (bytesValue ((block (s.effAddr base offset) n).map s.mem.read))).setWidth
            s.xlen)).advance .regRegImm)) ∨
      (s.canRead (s.effAddr base offset) n = false ∧
        loadZero n dest base offset s = .next (s.trap .memoryAccess)) := by
  unfold loadZero raise writeReg
  rcases memRead_cases s (s.effAddr base offset) n with ⟨h, e⟩ | ⟨h, e⟩
  · exact .inl ⟨h, by rw [e]⟩
  · exact .inr ⟨h, by rw [e]⟩

/-- A sign-extending load writes its register or traps with nothing written (41_load_store.md rule R126). -/
theorem loadSign_cases (n : Nat) (dest base : Reg) (offset : Imm32) (s : State) :
    (s.canRead (s.effAddr base offset) n = true ∧
        loadSign n dest base offset s = .next ((s.setReg dest
          ((BitVec.ofNat (8 * n) (bytesValue ((block (s.effAddr base offset) n).map s.mem.read))).signExtend
            s.xlen)).advance .regRegImm)) ∨
      (s.canRead (s.effAddr base offset) n = false ∧
        loadSign n dest base offset s = .next (s.trap .memoryAccess)) := by
  unfold loadSign raise writeReg
  rcases memRead_cases s (s.effAddr base offset) n with ⟨h, e⟩ | ⟨h, e⟩
  · exact .inl ⟨h, by rw [e]⟩
  · exact .inr ⟨h, by rw [e]⟩

/-- A store writes its bytes or traps with nothing written (41_load_store.md rule R139). -/
theorem storeReg_cases (n : Nat) (src base : Reg) (offset : Imm32) (s : State) :
    (s.canWrite (s.effAddr base offset) n = true ∧
        storeReg n src base offset s =
          .next ((s.putBytes (s.effAddr base offset) (valueBytes (s.low (8 * n) src) n)).advance .regRegImm)) ∨
      (s.canWrite (s.effAddr base offset) n = false ∧
        storeReg n src base offset s = .next (s.trap .memoryAccess)) := by
  unfold storeReg raise
  rcases memWrite_cases s (s.effAddr base offset) n (s.low (8 * n) src) with ⟨h, e⟩ | ⟨h, e⟩
  · exact .inl ⟨h, by rw [e]⟩
  · exact .inr ⟨h, by rw [e]⟩

/-- A store-immediate writes its bytes or traps with nothing written (41_load_store.md rule R134). -/
theorem storeConst_cases (n : Nat) (imm : Imm32) (v : BitVec (8 * n)) (s : State) :
    (s.canWrite (s.storeImmAddress imm) n = true ∧
        storeConst n imm v s = .next ((s.putBytes (s.storeImmAddress imm) (valueBytes v n)).advance .imm)) ∨
      (s.canWrite (s.storeImmAddress imm) n = false ∧
        storeConst n imm v s = .next (s.trap .memoryAccess)) := by
  unfold storeConst raise
  rcases memWrite_cases s (s.storeImmAddress imm) n v with ⟨h, e⟩ | ⟨h, e⟩
  · exact .inl ⟨h, by rw [e]⟩
  · exact .inr ⟨h, by rw [e]⟩

/-- The fetch answers the instruction at an instruction start, or one of its two traps
(40_control_flow_and_branch.md rule R102). -/
theorem fetch_cases (s : State) :
    (isStart s.params s.pc = true ∧ ∃ i l, progAt s.params s.pc = some (i, l) ∧ fetch s = .ok i) ∨
      (isStart s.params s.pc = true ∧ progAt s.params s.pc = none ∧
        fetch s = .error .invalidInstruction) ∨
      (isStart s.params s.pc = false ∧ fetch s = .error .invalidTarget) := by
  unfold fetch
  cases h : isStart s.params s.pc
  · simp
  · cases h2 : progAt s.params s.pc
    · simp
    · exact .inl ⟨rfl, _, _, rfl, by simp⟩

/-- An assumed answer is the host's answer. -/
@[simp] theorem hostAnswer_cons {s : State} {a : HostAnswer} {rest : List HostAnswer} (h : s.hostAnswers = a :: rest)
    (k : Nat) : s.hostAnswer k = a := by
  simp [State.hostAnswer, h]

/-- Where no answer is assumed the oracle answers, and from what the host sees (rules R310, R311). -/
theorem hostAnswer_nil {s : State} (h : s.hostAnswers = []) (k : Nat) :
    s.hostAnswer k = Config.host s.params k (s.regs.cut s.xlen) s.pc s.mem := by
  simp [State.hostAnswer, h]

/-- The host resumes the machine or has ended the run (rule R311). -/
theorem hostReturn_cases (k : Nat) (s : State) :
    (∃ regs patch, s.hostAnswer k = .resume regs patch ∧
        hostReturn k s = .next { s with
          regs := regs.cut s.xlen
          mem := s.mem.writeAll (accessibleCells s.params patch)
          status := .running
          hostAnswers := s.hostAnswers.tail }) ∨
      (s.hostAnswer k = .stop ∧ hostReturn k s = .fault (.runEnded k)) := by
  unfold hostReturn
  cases h : s.hostAnswer k
  · exact .inl ⟨_, _, rfl, rfl⟩
  · exact .inr ⟨rfl, rfl⟩

/-! ## Everything an instruction can do -/

/-- The shapes of a next state of the instruction `i` from `s`. -/
inductive Effect (i : Instr) (s : State) : State → Prop
  /-- It traps. -/
  | trap (r : TrapReason) : Effect i s (s.trap r)
  /-- It only moves on. -/
  | move : Effect i s (s.advance (formatOf i))
  /-- It writes one register. -/
  | write (d : Reg) (v : BitVec s.xlen) : Effect i s ((s.setReg d v).advance (formatOf i))
  /-- It transfers control to a valid target. -/
  | jump (t : Int) : validTarget s.params t = true → Effect i s (s.setPc t.toNat)
  /-- It calls the host. -/
  | call (imm : Imm32) : i = .ecalli imm → Effect i s ((s.advance (formatOf i)).enterHostCall imm.toNat)
  /-- It stores bytes at writable addresses, `n` of them free. -/
  | store (a : BitVec s.xlen) (bs : List Byte) (n : Nat) : s.canWrite a bs.length = true →
      Effect i s (((s.putBytes a bs).drawFree n).advance (formatOf i))

/-- The answer is one of those shapes whenever it is a next state. -/
def Answers (i : Instr) (s : State) (o : Result) : Prop :=
  ∀ t, o = .next t → Effect i s t

theorem answers_next {i : Instr} {s t : State} (h : Effect i s t) : Answers i s (.next t) := by
  intro u hu
  cases hu
  exact h

theorem answers_refused (i : Instr) (s : State) (r : Refusal) : Answers i s (.refused r) := by
  intro u hu
  cases hu

theorem answers_raise (i : Instr) (s : State) (r : TrapReason) : Answers i s (raise r s) :=
  answers_next (.trap r)

theorem answers_finish {i : Instr} {f : Format} (s : State) (h : formatOf i = f) : Answers i s (finish f s) :=
  answers_next (h ▸ .move)

theorem answers_writeReg {i : Instr} {f : Format} (s : State) (d : Reg) (v : BitVec s.xlen)
    (h : formatOf i = f) : Answers i s (writeReg f d s v) :=
  answers_next (h ▸ .write d v)

theorem answers_in64 {i : Instr} {s : State} {k : Result} (h : Answers i s k) : Answers i s (in64 s k) := by
  rcases in64_cases s k with ⟨-, e⟩ | ⟨-, e⟩ <;> rw [e]
  · exact h
  · exact answers_next (.trap _)

theorem answers_altForm {i : Instr} {s : State} {k : Result} (h : Answers i s k) : Answers i s (altForm s k) := by
  rcases altForm_cases s k with ⟨-, e⟩ | ⟨-, e⟩ <;> rw [e]
  · exact h
  · exact answers_refused i s _

theorem answers_jumpTo (i : Instr) (s : State) (t : Int) : Answers i s (jumpTo t s) := by
  rcases jumpTo_cases t s with ⟨h, e⟩ | ⟨-, e⟩ <;> rw [e]
  · exact answers_next (.jump t h)
  · exact answers_next (.trap _)

theorem answers_branch {i : Instr} (s : State) (c : Cond) (r1 r2 : Reg) (off : Imm32)
    (h : formatOf i = .regRegOffset) : Answers i s (branch c r1 r2 off s) := by
  rcases branch_cases c r1 r2 off s with ⟨-, e⟩ | ⟨-, e⟩ <;> rw [e]
  · exact answers_jumpTo i s _
  · exact answers_finish s h

theorem answers_divide {i : Instr} (s : State) (W : Nat) (signed : Bool) (d r : Reg) (h : formatOf i = .regReg) :
    Answers i s (divide W signed d r s) := by
  rcases divide_cases W signed d r s with ⟨_, -, e⟩ | ⟨-, e⟩ <;> rw [e]
  · exact answers_next (.trap _)
  · exact answers_writeReg s d _ h

theorem answers_remain {i : Instr} (s : State) (W : Nat) (signed : Bool) (d r : Reg) (h : formatOf i = .regReg) :
    Answers i s (remain W signed d r s) := by
  rcases remain_cases W signed d r s with ⟨_, -, -, e⟩ | ⟨_, -, -, e⟩ | ⟨-, e⟩ <;> rw [e]
  · exact answers_next (.trap _)
  · exact answers_refused i s _
  · exact answers_writeReg s d _ h

theorem answers_loadZero {i : Instr} (s : State) (n : Nat) (d b : Reg) (o : Imm32) (h : formatOf i = .regRegImm) :
    Answers i s (loadZero n d b o s) := by
  rcases loadZero_cases n d b o s with ⟨-, e⟩ | ⟨-, e⟩ <;> rw [e]
  · exact answers_writeReg s d _ h
  · exact answers_next (.trap _)

theorem answers_loadSign {i : Instr} (s : State) (n : Nat) (d b : Reg) (o : Imm32) (h : formatOf i = .regRegImm) :
    Answers i s (loadSign n d b o s) := by
  rcases loadSign_cases n d b o s with ⟨-, e⟩ | ⟨-, e⟩ <;> rw [e]
  · exact answers_writeReg s d _ h
  · exact answers_next (.trap _)

@[simp] theorem valueBytes_length {w : Nat} (v : BitVec w) (n : Nat) : (valueBytes v n).length = n := by
  simp [valueBytes]

theorem answers_storeReg {i : Instr} (s : State) (n : Nat) (r b : Reg) (o : Imm32) (h : formatOf i = .regRegImm) :
    Answers i s (storeReg n r b o s) := by
  rcases storeReg_cases n r b o s with ⟨hw, e⟩ | ⟨-, e⟩ <;> rw [e]
  · exact answers_next (h ▸ .store _ _ 0 (by simpa using hw))
  · exact answers_next (.trap _)

theorem answers_storeConst {i : Instr} (s : State) (n : Nat) (imm : Imm32) (v : BitVec (8 * n))
    (h : formatOf i = .imm) : Answers i s (storeConst n imm v s) := by
  rcases storeConst_cases n imm v s with ⟨hw, e⟩ | ⟨-, e⟩ <;> rw [e]
  · exact answers_next (h ▸ .store _ _ 0 (by simpa using hw))
  · exact answers_next (.trap _)

/-- `memcpy` copies, leaves free bytes in a destination that meets the source, or traps (49_special.md rule R262). -/
theorem execMemcpy_cases (src dest : Reg) (s : State) :
    (s.canRead (s.reg src) (s.reg .a2).toNat = true ∧ s.canWrite (s.reg dest) (s.reg .a2).toNat = true ∧
        (s.reg src ≠ s.reg dest ∧ blocksMeet (s.reg src) (s.reg dest) (s.reg .a2).toNat = true) ∧
        execMemcpy src dest s = .next (((s.putBytes (s.reg dest) (s.freeBytes (s.reg .a2).toNat)).drawFree
          (s.reg .a2).toNat).advance .regReg)) ∨
      (s.canRead (s.reg src) (s.reg .a2).toNat = true ∧ s.canWrite (s.reg dest) (s.reg .a2).toNat = true ∧
        ¬ (s.reg src ≠ s.reg dest ∧ blocksMeet (s.reg src) (s.reg dest) (s.reg .a2).toNat = true) ∧
        execMemcpy src dest s = .next ((s.putBytes (s.reg dest)
          ((block (s.reg src) (s.reg .a2).toNat).map s.mem.read)).advance .regReg)) ∨
      (¬ (s.canRead (s.reg src) (s.reg .a2).toNat = true ∧ s.canWrite (s.reg dest) (s.reg .a2).toNat = true) ∧
        execMemcpy src dest s = .next (s.trap .memoryAccess)) := by
  unfold execMemcpy raise
  by_cases h : s.canRead (s.reg src) (s.reg .a2).toNat = true ∧ s.canWrite (s.reg dest) (s.reg .a2).toNat = true
  · by_cases h2 : s.reg src ≠ s.reg dest ∧ blocksMeet (s.reg src) (s.reg dest) (s.reg .a2).toNat = true
    · exact .inl ⟨h.1, h.2, h2, by rw [if_pos (by simp [h]), if_pos h2]⟩
    · exact .inr (.inl ⟨h.1, h.2, h2, by rw [if_pos (by simp [h]), if_neg h2]⟩)
  · exact .inr (.inr ⟨h, by rw [if_neg (by simpa using h)]⟩)

/-- `memset` fills or traps (49_special.md rule R263). -/
theorem execMemset_cases (s : State) :
    (s.canWrite (s.reg .a0) (s.reg .a2).toNat = true ∧
        execMemset s = .next ((s.putBytes (s.reg .a0)
          (List.replicate (s.reg .a2).toNat ((s.reg .a1).setWidth 8))).advance .argless)) ∨
      (s.canWrite (s.reg .a0) (s.reg .a2).toNat = false ∧ execMemset s = .next (s.trap .memoryAccess)) := by
  unfold execMemset raise
  cases s.canWrite (s.reg .a0) (s.reg .a2).toNat <;> simp

@[simp] theorem freeBytes_length (s : State) (n : Nat) : (s.freeBytes n).length = n := by
  simp [State.freeBytes]

theorem answers_memcpy (src dest : Reg) (s : State) : Answers (.memcpy src dest) s (execMemcpy src dest s) := by
  rcases execMemcpy_cases src dest s with ⟨-, hw, -, e⟩ | ⟨-, hw, -, e⟩ | ⟨-, e⟩ <;> rw [e]
  · exact answers_next (.store _ _ _ (by simpa using hw))
  · exact answers_next (.store _ _ 0 (by simpa using hw))
  · exact answers_next (.trap _)

theorem answers_memset (s : State) : Answers .memset s (execMemset s) := by
  rcases execMemset_cases s with ⟨hw, e⟩ | ⟨-, e⟩ <;> rw [e]
  · exact answers_next (.store _ _ 0 (by simpa using hw))
  · exact answers_next (.trap _)

theorem answers_ite {i : Instr} {s : State} {c : Prop} [Decidable c] {k l : Result} (hk : Answers i s k)
    (hl : Answers i s l) : Answers i s (if c then k else l) := by
  split
  · exact hk
  · exact hl

/-- Everything an instruction can do when it answers a next state. -/
theorem exec_effect {i : Instr} {s t : State} (h : exec i s = .next t) : Effect i s t := by
  revert t
  show Answers i s (exec i s)
  cases i
  case ecalli imm => exact answers_next (.call imm rfl)
  case jump off =>
    show Answers _ s (execJump off s)
    unfold execJump
    split
    · exact answers_jumpTo _ s _
    · exact answers_raise _ s _
  case memcpy src dest => exact answers_memcpy src dest s
  case memset => exact answers_memset s
  case cmovIfZero d r v => exact answers_ite (answers_writeReg s d _ rfl) (answers_finish s rfl)
  case cmovIfNotZero d r v => exact answers_ite (answers_writeReg s d _ rfl) (answers_finish s rfl)
  case cmovIfZeroImm r v _ => exact answers_ite (answers_writeReg s r _ rfl) (answers_finish s rfl)
  case cmovIfNotZeroImm r v _ => exact answers_ite (answers_writeReg s r _ rfl) (answers_finish s rfl)
  case trap =>
    exact answers_raise _ s _
  case loadImmU8 | loadImmU16 | loadImmU32 | loadImmS32 | moveReg | countLeadingZeroBits32 |
    countTrailingZeroBits32 | countOnes | swapBytes | setLessThanUnsignedImm | setGreaterThanSignedImm |
    rotateRightImm32 | add32 | sub32 | mul32 | shiftLogicalLeft32 | shiftLogicalRight32 |
    shiftArithmeticRight32 | bitwiseAnd | bitwiseXor | bitwiseOr | mulUpperSignedSigned |
    mulUpperUnsignedUnsigned | mulUpperSignedUnsigned | setLessThanUnsigned | setLessThanSigned |
    rotateLeft32 | rotateRight32 | andInverted | orInverted | xnor | maximum | maximumUnsigned | minimum
    | minimumUnsigned =>
    exact answers_writeReg s _ _ rfl
  case loadImmU64 | countLeadingZeroBits64 | countTrailingZeroBits64 | rotateRightImm64 | add64 | sub64 |
    mul64 | shiftLogicalLeft64 | shiftLogicalRight64 | shiftArithmeticRight64 | rotateLeft64 |
    rotateRight64 =>
    exact answers_in64 (answers_writeReg s _ _ rfl)
  case storeImmU8 | storeImmU16 | storeImmU32 =>
    exact answers_storeConst s _ _ _ rfl
  case storeImmU64 =>
    exact answers_in64 (answers_storeConst s _ _ _ rfl)
  case load8 | load16 | load32 =>
    exact answers_loadZero s _ _ _ _ rfl
  case load8Signed | load16Signed | load32Signed =>
    exact answers_loadSign s _ _ _ _ rfl
  case load64 =>
    exact answers_in64 (answers_loadZero s _ _ _ _ rfl)
  case store8 | store16 | store32 =>
    exact answers_storeReg s _ _ _ _ rfl
  case store64 =>
    exact answers_in64 (answers_storeReg s _ _ _ _ rfl)
  case shiftLogicalLeftImmAlt32 | shiftLogicalRightImmAlt32 | shiftArithmeticRightImmAlt32 |
    rotateRightImmAlt32 =>
    exact answers_altForm (answers_writeReg s _ _ rfl)
  case unlikely | fallthrough =>
    exact answers_finish s rfl
  case shiftLogicalLeftImmAlt64 | shiftLogicalRightImmAlt64 | shiftArithmeticRightImmAlt64 |
    rotateRightImmAlt64 =>
    exact answers_in64 (answers_altForm (answers_writeReg s _ _ rfl))
  case branchEq | branchNotEq | branchLessUnsigned | branchLessSigned | branchGreaterOrEqualUnsigned |
    branchGreaterOrEqualSigned =>
    exact answers_branch s _ _ _ _ rfl
  case divUnsigned32 | divSigned32 =>
    exact answers_divide s _ _ _ _ rfl
  case remUnsigned32 | remSigned32 =>
    exact answers_remain s _ _ _ _ rfl
  case divUnsigned64 | divSigned64 =>
    exact answers_in64 (answers_divide s _ _ _ _ rfl)
  case remUnsigned64 | remSigned64 =>
    exact answers_in64 (answers_remain s _ _ _ _ rfl)

end Sys2Proof.Machine
end

