-- ==== Sys2Proof/Laws/PerInstr.lean ====
section
/-! SUPPORT. For every instruction: the decoder's opcode map and the encoder agree on it (30_encoding.md rule R75). -/

namespace Sys2Proof.Laws

/-- The row of the instruction's opcode number has the instruction's format and makes the instruction of its operands, and
the number fits in a byte. -/
def OpcodeRow.Statement (i : Instr) : Prop :=
  ∃ row, rowOf (opcodeOf i) = some row ∧ rowFormat row = formatOf i ∧ rowBuild row (operandsOf i) = some i ∧
    opcodeOf i < 256

theorem OpcodeRow.trap : OpcodeRow.Statement .trap :=
  ⟨_, rfl, rfl, rfl, Nat.le_of_ble_eq_true rfl⟩
theorem OpcodeRow.ecalli (imm : Imm32) : OpcodeRow.Statement (.ecalli imm) :=
  ⟨_, rfl, rfl, rfl, Nat.le_of_ble_eq_true rfl⟩
theorem OpcodeRow.loadImmU8 (reg : Reg) (imm : Imm32) : OpcodeRow.Statement (.loadImmU8 reg imm) :=
  ⟨_, rfl, rfl, rfl, Nat.le_of_ble_eq_true rfl⟩
theorem OpcodeRow.loadImmU16 (reg : Reg) (imm : Imm32) : OpcodeRow.Statement (.loadImmU16 reg imm) :=
  ⟨_, rfl, rfl, rfl, Nat.le_of_ble_eq_true rfl⟩
theorem OpcodeRow.loadImmU32 (reg : Reg) (imm : Imm32) : OpcodeRow.Statement (.loadImmU32 reg imm) :=
  ⟨_, rfl, rfl, rfl, Nat.le_of_ble_eq_true rfl⟩
theorem OpcodeRow.loadImmU64 (reg : Reg) (imm : Imm64) : OpcodeRow.Statement (.loadImmU64 reg imm) :=
  ⟨_, rfl, rfl, rfl, Nat.le_of_ble_eq_true rfl⟩
theorem OpcodeRow.loadImmS32 (reg : Reg) (imm : Imm32) : OpcodeRow.Statement (.loadImmS32 reg imm) :=
  ⟨_, rfl, rfl, rfl, Nat.le_of_ble_eq_true rfl⟩
theorem OpcodeRow.storeImmU8 (imm : Imm32) : OpcodeRow.Statement (.storeImmU8 imm) :=
  ⟨_, rfl, rfl, rfl, Nat.le_of_ble_eq_true rfl⟩
theorem OpcodeRow.storeImmU16 (imm : Imm32) : OpcodeRow.Statement (.storeImmU16 imm) :=
  ⟨_, rfl, rfl, rfl, Nat.le_of_ble_eq_true rfl⟩
theorem OpcodeRow.storeImmU32 (imm : Imm32) : OpcodeRow.Statement (.storeImmU32 imm) :=
  ⟨_, rfl, rfl, rfl, Nat.le_of_ble_eq_true rfl⟩
theorem OpcodeRow.storeImmU64 (imm : Imm32) : OpcodeRow.Statement (.storeImmU64 imm) :=
  ⟨_, rfl, rfl, rfl, Nat.le_of_ble_eq_true rfl⟩
theorem OpcodeRow.jump (offset : Imm32) : OpcodeRow.Statement (.jump offset) :=
  ⟨_, rfl, rfl, rfl, Nat.le_of_ble_eq_true rfl⟩
theorem OpcodeRow.load8 (dest base : Reg) (offset : Imm32) : OpcodeRow.Statement (.load8 dest base offset) :=
  ⟨_, rfl, rfl, rfl, Nat.le_of_ble_eq_true rfl⟩
theorem OpcodeRow.load8Signed (dest base : Reg) (offset : Imm32) :
    OpcodeRow.Statement (.load8Signed dest base offset) :=
  ⟨_, rfl, rfl, rfl, Nat.le_of_ble_eq_true rfl⟩
theorem OpcodeRow.load16 (dest base : Reg) (offset : Imm32) :
    OpcodeRow.Statement (.load16 dest base offset) :=
  ⟨_, rfl, rfl, rfl, Nat.le_of_ble_eq_true rfl⟩
theorem OpcodeRow.load16Signed (dest base : Reg) (offset : Imm32) :
    OpcodeRow.Statement (.load16Signed dest base offset) :=
  ⟨_, rfl, rfl, rfl, Nat.le_of_ble_eq_true rfl⟩
theorem OpcodeRow.load32 (dest base : Reg) (offset : Imm32) :
    OpcodeRow.Statement (.load32 dest base offset) :=
  ⟨_, rfl, rfl, rfl, Nat.le_of_ble_eq_true rfl⟩
theorem OpcodeRow.load32Signed (dest base : Reg) (offset : Imm32) :
    OpcodeRow.Statement (.load32Signed dest base offset) :=
  ⟨_, rfl, rfl, rfl, Nat.le_of_ble_eq_true rfl⟩
theorem OpcodeRow.load64 (dest base : Reg) (offset : Imm32) :
    OpcodeRow.Statement (.load64 dest base offset) :=
  ⟨_, rfl, rfl, rfl, Nat.le_of_ble_eq_true rfl⟩
theorem OpcodeRow.store8 (src base : Reg) (offset : Imm32) : OpcodeRow.Statement (.store8 src base offset) :=
  ⟨_, rfl, rfl, rfl, Nat.le_of_ble_eq_true rfl⟩
theorem OpcodeRow.store16 (src base : Reg) (offset : Imm32) :
    OpcodeRow.Statement (.store16 src base offset) :=
  ⟨_, rfl, rfl, rfl, Nat.le_of_ble_eq_true rfl⟩
theorem OpcodeRow.store32 (src base : Reg) (offset : Imm32) :
    OpcodeRow.Statement (.store32 src base offset) :=
  ⟨_, rfl, rfl, rfl, Nat.le_of_ble_eq_true rfl⟩
theorem OpcodeRow.store64 (src base : Reg) (offset : Imm32) :
    OpcodeRow.Statement (.store64 src base offset) :=
  ⟨_, rfl, rfl, rfl, Nat.le_of_ble_eq_true rfl⟩
theorem OpcodeRow.moveReg (dest src : Reg) : OpcodeRow.Statement (.moveReg dest src) :=
  ⟨_, rfl, rfl, rfl, Nat.le_of_ble_eq_true rfl⟩
theorem OpcodeRow.countLeadingZeroBits32 (reg : Reg) : OpcodeRow.Statement (.countLeadingZeroBits32 reg) :=
  ⟨_, rfl, rfl, rfl, Nat.le_of_ble_eq_true rfl⟩
theorem OpcodeRow.countLeadingZeroBits64 (reg : Reg) : OpcodeRow.Statement (.countLeadingZeroBits64 reg) :=
  ⟨_, rfl, rfl, rfl, Nat.le_of_ble_eq_true rfl⟩
theorem OpcodeRow.countTrailingZeroBits32 (reg : Reg) : OpcodeRow.Statement (.countTrailingZeroBits32 reg) :=
  ⟨_, rfl, rfl, rfl, Nat.le_of_ble_eq_true rfl⟩
theorem OpcodeRow.countTrailingZeroBits64 (reg : Reg) : OpcodeRow.Statement (.countTrailingZeroBits64 reg) :=
  ⟨_, rfl, rfl, rfl, Nat.le_of_ble_eq_true rfl⟩
theorem OpcodeRow.countOnes (reg : Reg) : OpcodeRow.Statement (.countOnes reg) :=
  ⟨_, rfl, rfl, rfl, Nat.le_of_ble_eq_true rfl⟩
theorem OpcodeRow.swapBytes (reg : Reg) : OpcodeRow.Statement (.swapBytes reg) :=
  ⟨_, rfl, rfl, rfl, Nat.le_of_ble_eq_true rfl⟩
theorem OpcodeRow.memcpy (src dest : Reg) : OpcodeRow.Statement (.memcpy src dest) :=
  ⟨_, rfl, rfl, rfl, Nat.le_of_ble_eq_true rfl⟩
theorem OpcodeRow.memset : OpcodeRow.Statement .memset :=
  ⟨_, rfl, rfl, rfl, Nat.le_of_ble_eq_true rfl⟩
theorem OpcodeRow.setLessThanUnsignedImm (reg : Reg) (imm unused : Imm32) :
    OpcodeRow.Statement (.setLessThanUnsignedImm reg imm unused) :=
  ⟨_, rfl, rfl, rfl, Nat.le_of_ble_eq_true rfl⟩
theorem OpcodeRow.setGreaterThanSignedImm (reg : Reg) (imm unused : Imm32) :
    OpcodeRow.Statement (.setGreaterThanSignedImm reg imm unused) :=
  ⟨_, rfl, rfl, rfl, Nat.le_of_ble_eq_true rfl⟩
theorem OpcodeRow.shiftLogicalLeftImmAlt32 (reg : Reg) (shift unused : Imm32) :
    OpcodeRow.Statement (.shiftLogicalLeftImmAlt32 reg shift unused) :=
  ⟨_, rfl, rfl, rfl, Nat.le_of_ble_eq_true rfl⟩
theorem OpcodeRow.shiftLogicalRightImmAlt32 (reg : Reg) (shift unused : Imm32) :
    OpcodeRow.Statement (.shiftLogicalRightImmAlt32 reg shift unused) :=
  ⟨_, rfl, rfl, rfl, Nat.le_of_ble_eq_true rfl⟩
theorem OpcodeRow.shiftArithmeticRightImmAlt32 (reg : Reg) (shift unused : Imm32) :
    OpcodeRow.Statement (.shiftArithmeticRightImmAlt32 reg shift unused) :=
  ⟨_, rfl, rfl, rfl, Nat.le_of_ble_eq_true rfl⟩
theorem OpcodeRow.cmovIfZeroImm (reg : Reg) (value unused : Imm32) :
    OpcodeRow.Statement (.cmovIfZeroImm reg value unused) :=
  ⟨_, rfl, rfl, rfl, Nat.le_of_ble_eq_true rfl⟩
theorem OpcodeRow.cmovIfNotZeroImm (reg : Reg) (value unused : Imm32) :
    OpcodeRow.Statement (.cmovIfNotZeroImm reg value unused) :=
  ⟨_, rfl, rfl, rfl, Nat.le_of_ble_eq_true rfl⟩
theorem OpcodeRow.unlikely : OpcodeRow.Statement .unlikely :=
  ⟨_, rfl, rfl, rfl, Nat.le_of_ble_eq_true rfl⟩
theorem OpcodeRow.fallthrough : OpcodeRow.Statement .fallthrough :=
  ⟨_, rfl, rfl, rfl, Nat.le_of_ble_eq_true rfl⟩
theorem OpcodeRow.shiftLogicalLeftImmAlt64 (reg : Reg) (shift unused : Imm32) :
    OpcodeRow.Statement (.shiftLogicalLeftImmAlt64 reg shift unused) :=
  ⟨_, rfl, rfl, rfl, Nat.le_of_ble_eq_true rfl⟩
theorem OpcodeRow.shiftLogicalRightImmAlt64 (reg : Reg) (shift unused : Imm32) :
    OpcodeRow.Statement (.shiftLogicalRightImmAlt64 reg shift unused) :=
  ⟨_, rfl, rfl, rfl, Nat.le_of_ble_eq_true rfl⟩
theorem OpcodeRow.shiftArithmeticRightImmAlt64 (reg : Reg) (shift unused : Imm32) :
    OpcodeRow.Statement (.shiftArithmeticRightImmAlt64 reg shift unused) :=
  ⟨_, rfl, rfl, rfl, Nat.le_of_ble_eq_true rfl⟩
theorem OpcodeRow.rotateRightImm64 (reg : Reg) (shift unused : Imm32) :
    OpcodeRow.Statement (.rotateRightImm64 reg shift unused) :=
  ⟨_, rfl, rfl, rfl, Nat.le_of_ble_eq_true rfl⟩
theorem OpcodeRow.rotateRightImmAlt64 (reg : Reg) (shift unused : Imm32) :
    OpcodeRow.Statement (.rotateRightImmAlt64 reg shift unused) :=
  ⟨_, rfl, rfl, rfl, Nat.le_of_ble_eq_true rfl⟩
theorem OpcodeRow.rotateRightImm32 (reg : Reg) (shift unused : Imm32) :
    OpcodeRow.Statement (.rotateRightImm32 reg shift unused) :=
  ⟨_, rfl, rfl, rfl, Nat.le_of_ble_eq_true rfl⟩
theorem OpcodeRow.rotateRightImmAlt32 (reg : Reg) (shift unused : Imm32) :
    OpcodeRow.Statement (.rotateRightImmAlt32 reg shift unused) :=
  ⟨_, rfl, rfl, rfl, Nat.le_of_ble_eq_true rfl⟩
theorem OpcodeRow.branchEq (reg1 reg2 : Reg) (offset : Imm32) :
    OpcodeRow.Statement (.branchEq reg1 reg2 offset) :=
  ⟨_, rfl, rfl, rfl, Nat.le_of_ble_eq_true rfl⟩
theorem OpcodeRow.branchNotEq (reg1 reg2 : Reg) (offset : Imm32) :
    OpcodeRow.Statement (.branchNotEq reg1 reg2 offset) :=
  ⟨_, rfl, rfl, rfl, Nat.le_of_ble_eq_true rfl⟩
theorem OpcodeRow.branchLessUnsigned (reg1 reg2 : Reg) (offset : Imm32) :
    OpcodeRow.Statement (.branchLessUnsigned reg1 reg2 offset) :=
  ⟨_, rfl, rfl, rfl, Nat.le_of_ble_eq_true rfl⟩
theorem OpcodeRow.branchLessSigned (reg1 reg2 : Reg) (offset : Imm32) :
    OpcodeRow.Statement (.branchLessSigned reg1 reg2 offset) :=
  ⟨_, rfl, rfl, rfl, Nat.le_of_ble_eq_true rfl⟩
theorem OpcodeRow.branchGreaterOrEqualUnsigned (reg1 reg2 : Reg) (offset : Imm32) :
    OpcodeRow.Statement (.branchGreaterOrEqualUnsigned reg1 reg2 offset) :=
  ⟨_, rfl, rfl, rfl, Nat.le_of_ble_eq_true rfl⟩
theorem OpcodeRow.branchGreaterOrEqualSigned (reg1 reg2 : Reg) (offset : Imm32) :
    OpcodeRow.Statement (.branchGreaterOrEqualSigned reg1 reg2 offset) :=
  ⟨_, rfl, rfl, rfl, Nat.le_of_ble_eq_true rfl⟩
theorem OpcodeRow.add32 (dest src : Reg) (imm : Imm32) : OpcodeRow.Statement (.add32 dest src imm) :=
  ⟨_, rfl, rfl, rfl, Nat.le_of_ble_eq_true rfl⟩
theorem OpcodeRow.sub32 (dest src : Reg) (imm : Imm32) : OpcodeRow.Statement (.sub32 dest src imm) :=
  ⟨_, rfl, rfl, rfl, Nat.le_of_ble_eq_true rfl⟩
theorem OpcodeRow.mul32 (dest src : Reg) (imm : Imm32) : OpcodeRow.Statement (.mul32 dest src imm) :=
  ⟨_, rfl, rfl, rfl, Nat.le_of_ble_eq_true rfl⟩
theorem OpcodeRow.divUnsigned32 (dest src : Reg) : OpcodeRow.Statement (.divUnsigned32 dest src) :=
  ⟨_, rfl, rfl, rfl, Nat.le_of_ble_eq_true rfl⟩
theorem OpcodeRow.divSigned32 (dest src : Reg) : OpcodeRow.Statement (.divSigned32 dest src) :=
  ⟨_, rfl, rfl, rfl, Nat.le_of_ble_eq_true rfl⟩
theorem OpcodeRow.remUnsigned32 (dest src : Reg) : OpcodeRow.Statement (.remUnsigned32 dest src) :=
  ⟨_, rfl, rfl, rfl, Nat.le_of_ble_eq_true rfl⟩
theorem OpcodeRow.remSigned32 (dest src : Reg) : OpcodeRow.Statement (.remSigned32 dest src) :=
  ⟨_, rfl, rfl, rfl, Nat.le_of_ble_eq_true rfl⟩
theorem OpcodeRow.shiftLogicalLeft32 (dest count : Reg) :
    OpcodeRow.Statement (.shiftLogicalLeft32 dest count) :=
  ⟨_, rfl, rfl, rfl, Nat.le_of_ble_eq_true rfl⟩
theorem OpcodeRow.shiftLogicalRight32 (dest count : Reg) :
    OpcodeRow.Statement (.shiftLogicalRight32 dest count) :=
  ⟨_, rfl, rfl, rfl, Nat.le_of_ble_eq_true rfl⟩
theorem OpcodeRow.shiftArithmeticRight32 (dest count : Reg) :
    OpcodeRow.Statement (.shiftArithmeticRight32 dest count) :=
  ⟨_, rfl, rfl, rfl, Nat.le_of_ble_eq_true rfl⟩
theorem OpcodeRow.add64 (dest src : Reg) (imm : Imm32) : OpcodeRow.Statement (.add64 dest src imm) :=
  ⟨_, rfl, rfl, rfl, Nat.le_of_ble_eq_true rfl⟩
theorem OpcodeRow.sub64 (dest src : Reg) (imm : Imm32) : OpcodeRow.Statement (.sub64 dest src imm) :=
  ⟨_, rfl, rfl, rfl, Nat.le_of_ble_eq_true rfl⟩
theorem OpcodeRow.mul64 (dest src : Reg) (imm : Imm32) : OpcodeRow.Statement (.mul64 dest src imm) :=
  ⟨_, rfl, rfl, rfl, Nat.le_of_ble_eq_true rfl⟩
theorem OpcodeRow.divUnsigned64 (dest src : Reg) : OpcodeRow.Statement (.divUnsigned64 dest src) :=
  ⟨_, rfl, rfl, rfl, Nat.le_of_ble_eq_true rfl⟩
theorem OpcodeRow.divSigned64 (dest src : Reg) : OpcodeRow.Statement (.divSigned64 dest src) :=
  ⟨_, rfl, rfl, rfl, Nat.le_of_ble_eq_true rfl⟩
theorem OpcodeRow.remUnsigned64 (dest src : Reg) : OpcodeRow.Statement (.remUnsigned64 dest src) :=
  ⟨_, rfl, rfl, rfl, Nat.le_of_ble_eq_true rfl⟩
theorem OpcodeRow.remSigned64 (dest src : Reg) : OpcodeRow.Statement (.remSigned64 dest src) :=
  ⟨_, rfl, rfl, rfl, Nat.le_of_ble_eq_true rfl⟩
theorem OpcodeRow.shiftLogicalLeft64 (dest count : Reg) :
    OpcodeRow.Statement (.shiftLogicalLeft64 dest count) :=
  ⟨_, rfl, rfl, rfl, Nat.le_of_ble_eq_true rfl⟩
theorem OpcodeRow.shiftLogicalRight64 (dest count : Reg) :
    OpcodeRow.Statement (.shiftLogicalRight64 dest count) :=
  ⟨_, rfl, rfl, rfl, Nat.le_of_ble_eq_true rfl⟩
theorem OpcodeRow.shiftArithmeticRight64 (dest count : Reg) :
    OpcodeRow.Statement (.shiftArithmeticRight64 dest count) :=
  ⟨_, rfl, rfl, rfl, Nat.le_of_ble_eq_true rfl⟩
theorem OpcodeRow.bitwiseAnd (dest src : Reg) (imm : Imm32) :
    OpcodeRow.Statement (.bitwiseAnd dest src imm) :=
  ⟨_, rfl, rfl, rfl, Nat.le_of_ble_eq_true rfl⟩
theorem OpcodeRow.bitwiseXor (dest src : Reg) (imm : Imm32) :
    OpcodeRow.Statement (.bitwiseXor dest src imm) :=
  ⟨_, rfl, rfl, rfl, Nat.le_of_ble_eq_true rfl⟩
theorem OpcodeRow.bitwiseOr (dest src : Reg) (imm : Imm32) : OpcodeRow.Statement (.bitwiseOr dest src imm) :=
  ⟨_, rfl, rfl, rfl, Nat.le_of_ble_eq_true rfl⟩
theorem OpcodeRow.mulUpperSignedSigned (dest src : Reg) :
    OpcodeRow.Statement (.mulUpperSignedSigned dest src) :=
  ⟨_, rfl, rfl, rfl, Nat.le_of_ble_eq_true rfl⟩
theorem OpcodeRow.mulUpperUnsignedUnsigned (dest src : Reg) :
    OpcodeRow.Statement (.mulUpperUnsignedUnsigned dest src) :=
  ⟨_, rfl, rfl, rfl, Nat.le_of_ble_eq_true rfl⟩
theorem OpcodeRow.mulUpperSignedUnsigned (dest src : Reg) :
    OpcodeRow.Statement (.mulUpperSignedUnsigned dest src) :=
  ⟨_, rfl, rfl, rfl, Nat.le_of_ble_eq_true rfl⟩
theorem OpcodeRow.setLessThanUnsigned (dest src : Reg) (imm : Imm32) :
    OpcodeRow.Statement (.setLessThanUnsigned dest src imm) :=
  ⟨_, rfl, rfl, rfl, Nat.le_of_ble_eq_true rfl⟩
theorem OpcodeRow.setLessThanSigned (dest src : Reg) (imm : Imm32) :
    OpcodeRow.Statement (.setLessThanSigned dest src imm) :=
  ⟨_, rfl, rfl, rfl, Nat.le_of_ble_eq_true rfl⟩
theorem OpcodeRow.cmovIfZero (dest src : Reg) (value : Imm32) :
    OpcodeRow.Statement (.cmovIfZero dest src value) :=
  ⟨_, rfl, rfl, rfl, Nat.le_of_ble_eq_true rfl⟩
theorem OpcodeRow.cmovIfNotZero (dest src : Reg) (value : Imm32) :
    OpcodeRow.Statement (.cmovIfNotZero dest src value) :=
  ⟨_, rfl, rfl, rfl, Nat.le_of_ble_eq_true rfl⟩
theorem OpcodeRow.rotateLeft64 (dest count : Reg) : OpcodeRow.Statement (.rotateLeft64 dest count) :=
  ⟨_, rfl, rfl, rfl, Nat.le_of_ble_eq_true rfl⟩
theorem OpcodeRow.rotateLeft32 (dest count : Reg) : OpcodeRow.Statement (.rotateLeft32 dest count) :=
  ⟨_, rfl, rfl, rfl, Nat.le_of_ble_eq_true rfl⟩
theorem OpcodeRow.rotateRight64 (dest count : Reg) : OpcodeRow.Statement (.rotateRight64 dest count) :=
  ⟨_, rfl, rfl, rfl, Nat.le_of_ble_eq_true rfl⟩
theorem OpcodeRow.rotateRight32 (dest count : Reg) : OpcodeRow.Statement (.rotateRight32 dest count) :=
  ⟨_, rfl, rfl, rfl, Nat.le_of_ble_eq_true rfl⟩
theorem OpcodeRow.andInverted (dest src : Reg) (imm : Imm32) :
    OpcodeRow.Statement (.andInverted dest src imm) :=
  ⟨_, rfl, rfl, rfl, Nat.le_of_ble_eq_true rfl⟩
theorem OpcodeRow.orInverted (dest src : Reg) (imm : Imm32) :
    OpcodeRow.Statement (.orInverted dest src imm) :=
  ⟨_, rfl, rfl, rfl, Nat.le_of_ble_eq_true rfl⟩
theorem OpcodeRow.xnor (dest src : Reg) (imm : Imm32) : OpcodeRow.Statement (.xnor dest src imm) :=
  ⟨_, rfl, rfl, rfl, Nat.le_of_ble_eq_true rfl⟩
theorem OpcodeRow.maximum (dest src : Reg) (imm : Imm32) : OpcodeRow.Statement (.maximum dest src imm) :=
  ⟨_, rfl, rfl, rfl, Nat.le_of_ble_eq_true rfl⟩
theorem OpcodeRow.maximumUnsigned (dest src : Reg) (imm : Imm32) :
    OpcodeRow.Statement (.maximumUnsigned dest src imm) :=
  ⟨_, rfl, rfl, rfl, Nat.le_of_ble_eq_true rfl⟩
theorem OpcodeRow.minimum (dest src : Reg) (imm : Imm32) : OpcodeRow.Statement (.minimum dest src imm) :=
  ⟨_, rfl, rfl, rfl, Nat.le_of_ble_eq_true rfl⟩
theorem OpcodeRow.minimumUnsigned (dest src : Reg) (imm : Imm32) :
    OpcodeRow.Statement (.minimumUnsigned dest src imm) :=
  ⟨_, rfl, rfl, rfl, Nat.le_of_ble_eq_true rfl⟩

end Sys2Proof.Laws
end

