-- ==== Sys2Proof/Tests/Slice0.lean ====
section
/-! SUPPORT. Tests and witnesses. Expected words and values come from spec/95_test_vectors.md (the vector is named) or from
hand calculation from the spec's rules. A `witness_…` theorem shows a state and operands that meet the hypotheses of the
statement of that name. -/

namespace Sys2Proof.Tests

open Sys2Proof.Machine

/-! ## Ill-formed terms are refused -/

theorem test_illformed_add64_in_32_bit_mode : (Instr.add64 .a0 .a1 0).wellFormed .x32 = false := rfl

theorem test_wellformed_add64_in_64_bit_mode : (Instr.add64 .a0 .a1 0).wellFormed .x64 = true := rfl

theorem test_illformed_code_of_2_to_31_bytes (code : List Byte) (h : code.length = 2 ^ 31) :
    ({ Params.atReset with code := code } : Params).wellFormed = false := by
  simp [Params.wellFormed, h]

theorem test_illformed_region_past_the_address_space :
    ({ Params.atReset with access := [⟨2 ^ 64 - 1, 2, .rw⟩] } : Params).wellFormed = false := by decide

theorem test_wellformed_region_to_the_last_address :
    ({ Params.atReset with access := [⟨2 ^ 64 - 1, 1, .rw⟩] } : Params).wellFormed = true := by decide

/-! ## Decoding: the instruction each written word stands for -/

theorem test_decode_trap : decode [0x00] = .ok .trap := rfl -- V1
theorem test_decode_ecalli : decode [0x0A, 0x07, 0x00, 0x00, 0x00] = .ok (.ecalli 0x7) := rfl -- V2
theorem test_decode_loadImmU8 : decode [0x14, 0x07, 0xFF, 0x01, 0x00, 0x00] = .ok (.loadImmU8 .a0 0x1FF) := rfl -- V30
theorem test_decode_loadImmU16 :
    decode [0x15, 0x07, 0x45, 0x23, 0x01, 0x00] = .ok (.loadImmU16 .a0 0x12345) := rfl -- V31
theorem test_decode_loadImmU32 :
    decode [0x16, 0x07, 0xFF, 0xFF, 0xFF, 0xFF] = .ok (.loadImmU32 .a0 0xFFFFFFFF) := rfl -- V32
theorem test_decode_loadImmU64 :
    decode [0x17, 0x07, 0x88, 0x77, 0x66, 0x55, 0x44, 0x33, 0x22, 0x11] =
      .ok (.loadImmU64 .a0 0x1122334455667788) := rfl -- V35
theorem test_decode_loadImmS32 :
    decode [0x18, 0x07, 0xFF, 0xFF, 0xFF, 0x7F] = .ok (.loadImmS32 .a0 0x7FFFFFFF) := rfl -- V34
theorem test_decode_storeImmU8 : decode [0x1E, 0xAB, 0x01, 0x00, 0x00] = .ok (.storeImmU8 0x1AB) := rfl -- V65
theorem test_decode_storeImmU16 : decode [0x1F, 0x34, 0x12, 0x00, 0x00] = .ok (.storeImmU16 0x1234) := rfl -- V66
theorem test_decode_storeImmU32 : decode [0x20, 0xEF, 0xBE, 0xAD, 0xDE] = .ok (.storeImmU32 0xDEADBEEF) := rfl -- V67
theorem test_decode_storeImmU64 : decode [0x21, 0xFE, 0xFF, 0xFF, 0xFF] = .ok (.storeImmU64 0xFFFFFFFE) := rfl -- V68
theorem test_decode_jump : decode [0x28, 0x01, 0x00, 0x00, 0x00] = .ok (.jump 0x1) := rfl -- V4
theorem test_decode_load8 : decode [0x32, 0x87, 0x01, 0x10, 0x00, 0x00] = .ok (.load8 .a0 .a1 0x1001) := rfl -- V52
theorem test_decode_load8Signed :
    decode [0x33, 0x87, 0x0F, 0x00, 0x00, 0x00] = .ok (.load8Signed .a0 .a1 0xF) := rfl -- V41
theorem test_decode_load16 : decode [0x34, 0x87, 0x00, 0x00, 0x00, 0x00] = .ok (.load16 .a0 .a1 0x0) := rfl -- V42
theorem test_decode_load16Signed :
    decode [0x35, 0x87, 0x00, 0x00, 0x00, 0x00] = .ok (.load16Signed .a0 .a1 0x0) := rfl -- V43
theorem test_decode_load32 : decode [0x36, 0x87, 0x01, 0x00, 0x00, 0x00] = .ok (.load32 .a0 .a1 0x1) := rfl -- V46
theorem test_decode_load32Signed :
    decode [0x37, 0x87, 0x00, 0x00, 0x00, 0x00] = .ok (.load32Signed .a0 .a1 0x0) := rfl -- V45
theorem test_decode_load64 :
    decode [0x38, 0x87, 0xF8, 0xFF, 0xFF, 0xFF] = .ok (.load64 .a0 .a1 0xFFFFFFF8) := rfl -- V48
theorem test_decode_store8 : decode [0x3C, 0x87, 0x00, 0x00, 0x00, 0x00] = .ok (.store8 .a0 .a1 0x0) := rfl -- V56
theorem test_decode_store16 : decode [0x3D, 0x87, 0x01, 0x00, 0x00, 0x00] = .ok (.store16 .a0 .a1 0x1) := rfl -- V57
theorem test_decode_store32 : decode [0x3E, 0x87, 0x04, 0x00, 0x00, 0x00] = .ok (.store32 .a0 .a1 0x4) := rfl -- V58
theorem test_decode_store64 : decode [0x3F, 0x87, 0x08, 0x00, 0x00, 0x00] = .ok (.store64 .a0 .a1 0x8) := rfl -- V59
theorem test_decode_moveReg : decode [0x64, 0x87] = .ok (.moveReg .a0 .a1) := rfl -- V236
theorem test_decode_countLeadingZeroBits32 : decode [0x68, 0x07] = .ok (.countLeadingZeroBits32 .a0) := rfl -- V221
theorem test_decode_countLeadingZeroBits64 : decode [0x69, 0x07] = .ok (.countLeadingZeroBits64 .a0) := rfl -- V224
theorem test_decode_countTrailingZeroBits32 : decode [0x6A, 0x07] = .ok (.countTrailingZeroBits32 .a0) := rfl -- V226
theorem test_decode_countTrailingZeroBits64 : decode [0x6B, 0x07] = .ok (.countTrailingZeroBits64 .a0) := rfl -- V228
theorem test_decode_countOnes : decode [0x6C, 0x07] = .ok (.countOnes .a0) := rfl -- V230
theorem test_decode_swapBytes : decode [0x6D, 0x07] = .ok (.swapBytes .a0) := rfl -- V233
theorem test_decode_memcpy : decode [0x6E, 0x78] = .ok (.memcpy .a1 .a0) := rfl -- V238
theorem test_decode_memset : decode [0x78] = .ok .memset := rfl -- V244
theorem test_decode_setLessThanUnsignedImm :
    decode [0x8C, 0x07, 0x00, 0x00, 0x00, 0x00, 0x78, 0x56, 0x34, 0x12] =
      .ok (.setLessThanUnsignedImm .a0 0x0 0x12345678) := rfl -- V161
theorem test_decode_setGreaterThanSignedImm :
    decode [0x8D, 0x07, 0x05, 0x00, 0x00, 0x00, 0x00, 0x00, 0x00, 0x00] =
      .ok (.setGreaterThanSignedImm .a0 0x5 0x0) := rfl -- V162
theorem test_decode_shiftLogicalLeftImmAlt32 :
    decode [0x90, 0x07, 0x1F, 0x00, 0x00, 0x00, 0x00, 0x00, 0x00, 0x00] =
      .ok (.shiftLogicalLeftImmAlt32 .a0 0x1F 0x0) := rfl -- V180
theorem test_decode_shiftLogicalRightImmAlt32 :
    decode [0x91, 0x07, 0x04, 0x00, 0x00, 0x00, 0x00, 0x00, 0x00, 0x00] =
      .ok (.shiftLogicalRightImmAlt32 .a0 0x4 0x0) := rfl -- V183
theorem test_decode_shiftArithmeticRightImmAlt32 :
    decode [0x92, 0x07, 0x01, 0x00, 0x00, 0x00, 0x00, 0x00, 0x00, 0x00] =
      .ok (.shiftArithmeticRightImmAlt32 .a0 0x1 0x0) := rfl -- V186
theorem test_decode_cmovIfZeroImm :
    decode [0x93, 0x07, 0x07, 0x00, 0x00, 0x00, 0x00, 0x00, 0x00, 0x00] =
      .ok (.cmovIfZeroImm .a0 0x7 0x0) := rfl -- V207
theorem test_decode_cmovIfNotZeroImm :
    decode [0x94, 0x07, 0x01, 0x00, 0x00, 0x00, 0x00, 0x00, 0x00, 0x00] =
      .ok (.cmovIfNotZeroImm .a0 0x1 0x0) := rfl -- V209
theorem test_decode_unlikely : decode [0x96] = .ok .unlikely := rfl -- V248
theorem test_decode_fallthrough : decode [0x97] = .ok .fallthrough := rfl -- V28
theorem test_decode_shiftLogicalLeftImmAlt64 :
    decode [0x9B, 0x07, 0x04, 0x00, 0x00, 0x00, 0x00, 0x00, 0x00, 0x00] =
      .ok (.shiftLogicalLeftImmAlt64 .a0 0x4 0x0) := rfl -- V182
theorem test_decode_shiftLogicalRightImmAlt64 :
    decode [0x9C, 0x07, 0x3F, 0x00, 0x00, 0x00, 0x00, 0x00, 0x00, 0x00] =
      .ok (.shiftLogicalRightImmAlt64 .a0 0x3F 0x0) := rfl -- V184
theorem test_decode_shiftArithmeticRightImmAlt64 :
    decode [0x9D, 0x07, 0x08, 0x00, 0x00, 0x00, 0x00, 0x00, 0x00, 0x00] =
      .ok (.shiftArithmeticRightImmAlt64 .a0 0x8 0x0) := rfl -- V187
theorem test_decode_rotateRightImm64 :
    decode [0x9E, 0x07, 0x44, 0x00, 0x00, 0x00, 0x00, 0x00, 0x00, 0x00] =
      .ok (.rotateRightImm64 .a0 0x44 0x0) := rfl -- V196
theorem test_decode_rotateRightImmAlt64 :
    decode [0x9F, 0x07, 0x44, 0x00, 0x00, 0x00, 0x00, 0x00, 0x00, 0x00] =
      .ok (.rotateRightImmAlt64 .a0 0x44 0x0) := rfl -- V198
theorem test_decode_rotateRightImm32 :
    decode [0xA0, 0x07, 0x08, 0x00, 0x00, 0x00, 0x00, 0x00, 0x00, 0x00] =
      .ok (.rotateRightImm32 .a0 0x8 0x0) := rfl -- V195
theorem test_decode_rotateRightImmAlt32 :
    decode [0xA1, 0x07, 0x08, 0x00, 0x00, 0x00, 0x00, 0x00, 0x00, 0x00] =
      .ok (.rotateRightImmAlt32 .a0 0x8 0x0) := rfl -- V197
theorem test_decode_branchEq : decode [0xAA, 0x32, 0x07, 0x00, 0x00, 0x00] = .ok (.branchEq .t0 .t1 0x7) := rfl -- V9
theorem test_decode_branchNotEq :
    decode [0xAB, 0x28, 0xFA, 0xFF, 0xFF, 0xFF] = .ok (.branchNotEq .a1 .t0 0xFFFFFFFA) := rfl -- V14
theorem test_decode_branchLessUnsigned :
    decode [0xAC, 0x32, 0x06, 0x00, 0x00, 0x00] = .ok (.branchLessUnsigned .t0 .t1 0x6) := rfl -- V16
theorem test_decode_branchLessSigned :
    decode [0xAD, 0x32, 0x06, 0x00, 0x00, 0x00] = .ok (.branchLessSigned .t0 .t1 0x6) := rfl -- V17
theorem test_decode_branchGreaterOrEqualUnsigned :
    decode [0xAE, 0x32, 0x06, 0x00, 0x00, 0x00] = .ok (.branchGreaterOrEqualUnsigned .t0 .t1 0x6) := rfl -- V20
theorem test_decode_branchGreaterOrEqualSigned :
    decode [0xAF, 0x32, 0x06, 0x00, 0x00, 0x00] = .ok (.branchGreaterOrEqualSigned .t0 .t1 0x6) := rfl -- V22
theorem test_decode_add32 : decode [0xBE, 0x87, 0x01, 0x00, 0x00, 0x00] = .ok (.add32 .a0 .a1 0x1) := rfl -- V72
theorem test_decode_sub32 : decode [0xBF, 0x87, 0x01, 0x00, 0x00, 0x00] = .ok (.sub32 .a0 .a1 0x1) := rfl -- V83
theorem test_decode_mul32 : decode [0xC0, 0x87, 0x00, 0x00, 0x01, 0x00] = .ok (.mul32 .a0 .a1 0x10000) := rfl -- V88
theorem test_decode_divUnsigned32 : decode [0xC1, 0x87] = .ok (.divUnsigned32 .a0 .a1) := rfl -- V104
theorem test_decode_divSigned32 : decode [0xC2, 0x87] = .ok (.divSigned32 .a0 .a1) := rfl -- V113
theorem test_decode_remUnsigned32 : decode [0xC3, 0x87] = .ok (.remUnsigned32 .a0 .a1) := rfl -- V123
theorem test_decode_remSigned32 : decode [0xC4, 0x87] = .ok (.remSigned32 .a0 .a1) := rfl -- V128
theorem test_decode_shiftLogicalLeft32 : decode [0xC5, 0x87] = .ok (.shiftLogicalLeft32 .a0 .a1) := rfl -- V166
theorem test_decode_shiftLogicalRight32 : decode [0xC6, 0x87] = .ok (.shiftLogicalRight32 .a0 .a1) := rfl -- V172
theorem test_decode_shiftArithmeticRight32 :
    decode [0xC7, 0x87] = .ok (.shiftArithmeticRight32 .a0 .a1) := rfl -- V176
theorem test_decode_add64 :
    decode [0xC8, 0x87, 0xFE, 0xFF, 0xFF, 0xFF] = .ok (.add64 .a0 .a1 0xFFFFFFFE) := rfl -- V80
theorem test_decode_sub64 : decode [0xC9, 0x87, 0x01, 0x00, 0x00, 0x00] = .ok (.sub64 .a0 .a1 0x1) := rfl -- V85
theorem test_decode_mul64 : decode [0xCA, 0x87, 0x02, 0x00, 0x00, 0x00] = .ok (.mul64 .a0 .a1 0x2) := rfl -- V91
theorem test_decode_divUnsigned64 : decode [0xCB, 0x87] = .ok (.divUnsigned64 .a0 .a1) := rfl -- V109
theorem test_decode_divSigned64 : decode [0xCC, 0x87] = .ok (.divSigned64 .a0 .a1) := rfl -- V119
theorem test_decode_remUnsigned64 : decode [0xCD, 0x87] = .ok (.remUnsigned64 .a0 .a1) := rfl -- V125
theorem test_decode_remSigned64 : decode [0xCE, 0x87] = .ok (.remSigned64 .a0 .a1) := rfl -- V131
theorem test_decode_shiftLogicalLeft64 : decode [0xCF, 0x87] = .ok (.shiftLogicalLeft64 .a0 .a1) := rfl -- V169
theorem test_decode_shiftLogicalRight64 : decode [0xD0, 0x87] = .ok (.shiftLogicalRight64 .a0 .a1) := rfl -- V174
theorem test_decode_shiftArithmeticRight64 :
    decode [0xD1, 0x87] = .ok (.shiftArithmeticRight64 .a0 .a1) := rfl -- V178
theorem test_decode_bitwiseAnd :
    decode [0xD2, 0x87, 0xFF, 0x00, 0x00, 0x00] = .ok (.bitwiseAnd .a0 .a1 0xFF) := rfl -- V137
theorem test_decode_bitwiseXor :
    decode [0xD3, 0x87, 0xFF, 0xFF, 0xFF, 0xFF] = .ok (.bitwiseXor .a0 .a1 0xFFFFFFFF) := rfl -- V142
theorem test_decode_bitwiseOr :
    decode [0xD4, 0x87, 0x0F, 0x00, 0x00, 0x00] = .ok (.bitwiseOr .a0 .a1 0xF) := rfl -- V140
theorem test_decode_mulUpperSignedSigned : decode [0xD5, 0x87] = .ok (.mulUpperSignedSigned .a0 .a1) := rfl -- V94
theorem test_decode_mulUpperUnsignedUnsigned :
    decode [0xD6, 0x87] = .ok (.mulUpperUnsignedUnsigned .a0 .a1) := rfl -- V97
theorem test_decode_mulUpperSignedUnsigned : decode [0xD7, 0x87] = .ok (.mulUpperSignedUnsigned .a0 .a1) := rfl -- V99
theorem test_decode_setLessThanUnsigned :
    decode [0xD8, 0x87, 0xFF, 0xFF, 0xFF, 0xFF] = .ok (.setLessThanUnsigned .a0 .a1 0xFFFFFFFF) := rfl -- V152
theorem test_decode_setLessThanSigned :
    decode [0xD9, 0x87, 0xFF, 0xFF, 0xFF, 0xFF] = .ok (.setLessThanSigned .a0 .a1 0xFFFFFFFF) := rfl -- V155
theorem test_decode_cmovIfZero :
    decode [0xDA, 0x87, 0x2A, 0x00, 0x00, 0x00] = .ok (.cmovIfZero .a0 .a1 0x2A) := rfl -- V201
theorem test_decode_cmovIfNotZero :
    decode [0xDB, 0x87, 0xFF, 0xFF, 0xFF, 0xFF] = .ok (.cmovIfNotZero .a0 .a1 0xFFFFFFFF) := rfl -- V205
theorem test_decode_rotateLeft64 : decode [0xDC, 0x87] = .ok (.rotateLeft64 .a0 .a1) := rfl -- V190
theorem test_decode_rotateLeft32 : decode [0xDD, 0x87] = .ok (.rotateLeft32 .a0 .a1) := rfl -- V188
theorem test_decode_rotateRight64 : decode [0xDE, 0x87] = .ok (.rotateRight64 .a0 .a1) := rfl -- V194
theorem test_decode_rotateRight32 : decode [0xDF, 0x87] = .ok (.rotateRight32 .a0 .a1) := rfl -- V192
theorem test_decode_andInverted :
    decode [0xE0, 0x87, 0xFF, 0x00, 0x00, 0x00] = .ok (.andInverted .a0 .a1 0xFF) := rfl -- V144
theorem test_decode_orInverted :
    decode [0xE1, 0x87, 0xFF, 0xFF, 0xFF, 0xFF] = .ok (.orInverted .a0 .a1 0xFFFFFFFF) := rfl -- V146
theorem test_decode_xnor : decode [0xE2, 0x87, 0xFF, 0xFF, 0xFF, 0xFF] = .ok (.xnor .a0 .a1 0xFFFFFFFF) := rfl -- V149
theorem test_decode_maximum :
    decode [0xE3, 0x87, 0xFF, 0xFF, 0xFF, 0xFF] = .ok (.maximum .a0 .a1 0xFFFFFFFF) := rfl -- V212
theorem test_decode_maximumUnsigned :
    decode [0xE4, 0x87, 0xFF, 0xFF, 0xFF, 0xFF] = .ok (.maximumUnsigned .a0 .a1 0xFFFFFFFF) := rfl -- V214
theorem test_decode_minimum :
    decode [0xE5, 0x87, 0xFF, 0xFF, 0xFF, 0xFF] = .ok (.minimum .a0 .a1 0xFFFFFFFF) := rfl -- V216
theorem test_decode_minimumUnsigned :
    decode [0xE6, 0x87, 0x64, 0x00, 0x00, 0x00] = .ok (.minimumUnsigned .a0 .a1 0x64) := rfl -- V219

theorem test_decode_unassigned_opcode : decode [0x01] = .error (.unassignedOpcode 1) := rfl -- V250
theorem test_decode_bad_register : decode [0x64, 0x7D] = .error (.badRegister 13) := rfl -- V254
theorem test_decode_bad_high_nibble : decode [0x6C, 0x17] = .error .badHighNibble := rfl -- V255
theorem test_decode_truncated : decode [0xC8, 0x87, 0x01, 0x00] = .error .truncated := rfl -- V257
theorem test_decode_no_byte : decode [] = .error .noByte := rfl -- V263

/-- The number of the bytes `C8 87 FE FF FF FF`, the first byte lowest (30_encoding.md rules R65, R85). -/
theorem test_tableWord_add64 : decodeTableWord 48 0xFFFFFFFE87C8 = some (.add64 .a0 .a1 0xFFFFFFFE) := by decide

/-- Bits above those given are 0. -/
theorem test_tableWord_short : decodeTableWord 16 0xFFFF87C8 = some (.add64 .a0 .a1 0) := by decide

/-! ## One step -/

/-- A launch: 16 writable bytes at 0x1000, 16 read-only bytes at 0x2000, the other registers 0. -/
def start (m : Mode) (code : List Byte) (jt : List Nat) (regs : List (Reg × Word)) (cells : List Host.Cell) : State :=
  State.launch { Params.atReset with
      mode := m
      code := code
      jumpTable := jt
      access := [⟨0x1000, 16, .rw⟩, ⟨0x2000, 16, .ro⟩] }
    0 (regs.foldl (fun f p => f.set p.1 p.2) RegFile.atReset) cells []

/-- The bytes at 0x1000 of vectors V39 to V55. -/
def loadBytes : List Host.Cell :=
  [(0x1000, 0x80), (0x1001, 0x91), (0x1002, 0xA2), (0x1003, 0xB3), (0x1004, 0xC4), (0x1005, 0xD5), (0x1006, 0xE6),
    (0x1007, 0xF7), (0x1008, 0x08), (0x1009, 0x19), (0x100A, 0x2A), (0x100B, 0x3B), (0x100C, 0x4C), (0x100D, 0x5D),
    (0x100E, 0x6E), (0x100F, 0x7F)]

/-- The next state, if there is one. -/
def after : Result → Option State
  | .next t => some t
  | _ => none

/-- A register and `pc` after one step. -/
def seeReg (r : Reg) (s : State) : Option (Nat × Nat) :=
  (after (step s)).map (fun t => (t.uval r, t.pc))

/-- Bytes of memory and `pc` after one step. -/
def seeBytes (a n : Nat) (s : State) : Option (List Byte × Nat) :=
  (after (step s)).map (fun t => ((List.range n).map (fun i => t.mem.read (a + i)), t.pc))

/-- The status and `pc` after one step. -/
def seeStatus (s : State) : Option (Status × Nat) :=
  (after (step s)).map (fun t => (t.status, t.pc))

/-- Vector V1. -/
theorem test_step_trap :
    seeStatus (start .x64 [0x00] [] [(.a0, 0x5)] []) = some (.trapped .explicit, 0) := by decide

/-- Vector V2. -/
theorem test_step_ecalli :
    seeStatus (start .x64 [0x0A, 0x07, 0x00, 0x00, 0x00] [] [] []) = some (.inHostCall 7, 5) := by decide

/-- Vector V30. -/
theorem test_step_loadImmU8 :
    seeReg .a0 (start .x64 [0x14, 0x07, 0xFF, 0x01, 0x00, 0x00] [] [] []) = some (0xFF, 6) := by decide

/-- Vector V31. -/
theorem test_step_loadImmU16 :
    seeReg .a0 (start .x64 [0x15, 0x07, 0x45, 0x23, 0x01, 0x00] [] [] []) = some (0x2345, 6) := by decide

/-- Vector V32. -/
theorem test_step_loadImmU32 :
    seeReg .a0 (start .x64 [0x16, 0x07, 0xFF, 0xFF, 0xFF, 0xFF] [] [(.a0, 0xFFFFFFFFFFFFFFFF)] []) =
      some (0xFFFFFFFF, 6) := by decide

/-- Vector V35. -/
theorem test_step_loadImmU64 :
    seeReg .a0 (start .x64 [0x17, 0x07, 0x88, 0x77, 0x66, 0x55, 0x44, 0x33, 0x22, 0x11] [] [] []) =
      some (0x1122334455667788, 10) := by decide

/-- Vector V33. -/
theorem test_step_loadImmS32 :
    seeReg .a0 (start .x64 [0x18, 0x07, 0xFF, 0xFF, 0xFF, 0xFF] [] [] []) = some (0xFFFFFFFFFFFFFFFF, 6) := by decide

/-- Vector V65. -/
theorem test_step_storeImmU8 :
    seeBytes 0x1000 1 (start .x64 [0x1E, 0xAB, 0x01, 0x00, 0x00] [] [(.a0, 0x1000)] []) =
      some ([0xAB], 5) := by decide

/-- Vector V66. -/
theorem test_step_storeImmU16 :
    seeBytes 0x1001 2 (start .x64 [0x1F, 0x34, 0x12, 0x00, 0x00] [] [(.a0, 0x1001)] []) =
      some ([0x34, 0x12], 5) := by decide

/-- Vector V67. -/
theorem test_step_storeImmU32 :
    seeBytes 0x1000 4 (start .x64 [0x20, 0xEF, 0xBE, 0xAD, 0xDE] [] [(.a0, 0x1000)] []) =
      some ([0xEF, 0xBE, 0xAD, 0xDE], 5) := by decide

/-- Vector V68. -/
theorem test_step_storeImmU64 :
    seeBytes 0x1008 8 (start .x64 [0x21, 0xFE, 0xFF, 0xFF, 0xFF] [] [(.a0, 0x1008)] []) =
      some ([0xFE, 0xFF, 0xFF, 0xFF, 0xFF, 0xFF, 0xFF, 0xFF], 5) := by decide

/-- Vector V4. -/
theorem test_step_jump :
    seeStatus (start .x64 [0x28, 0x01, 0x00, 0x00, 0x00, 0x97, 0x00] [0, 6] [] []) = some (.running, 6) := by decide

/-- Vector V52. -/
theorem test_step_load8 :
    seeReg .a0 (start .x64 [0x32, 0x87, 0x01, 0x10, 0x00, 0x00] [] [(.a1, 0xFFFFFFFFFFFFFFFF)] loadBytes) =
      some (0x80, 6) := by decide

/-- Vector V40. -/
theorem test_step_load8Signed :
    seeReg .a0 (start .x64 [0x33, 0x87, 0x00, 0x00, 0x00, 0x00] [] [(.a1, 0x1000)] loadBytes) =
      some (0xFFFFFFFFFFFFFF80, 6) := by decide

/-- Vector V42. -/
theorem test_step_load16 :
    seeReg .a0 (start .x64 [0x34, 0x87, 0x00, 0x00, 0x00, 0x00] [] [(.a1, 0x1000)] loadBytes) =
      some (0x9180, 6) := by decide

/-- Vector V43. -/
theorem test_step_load16Signed :
    seeReg .a0 (start .x64 [0x35, 0x87, 0x00, 0x00, 0x00, 0x00] [] [(.a1, 0x1000)] loadBytes) =
      some (0xFFFFFFFFFFFF9180, 6) := by decide

/-- Vector V46. -/
theorem test_step_load32 :
    seeReg .a0 (start .x64 [0x36, 0x87, 0x01, 0x00, 0x00, 0x00] [] [(.a1, 0x1000)] loadBytes) =
      some (0xC4B3A291, 6) := by decide

/-- Vector V45. -/
theorem test_step_load32Signed :
    seeReg .a0 (start .x64 [0x37, 0x87, 0x00, 0x00, 0x00, 0x00] [] [(.a1, 0x1000)] loadBytes) =
      some (0xFFFFFFFFB3A29180, 6) := by decide

/-- Vector V48. -/
theorem test_step_load64 :
    seeReg .a0 (start .x64 [0x38, 0x87, 0xF8, 0xFF, 0xFF, 0xFF] [] [(.a1, 0x1010)] loadBytes) =
      some (0x7F6E5D4C3B2A1908, 6) := by decide

/-- Vector V56. -/
theorem test_step_store8 :
    seeBytes 0x1000 1 (start .x64 [0x3C, 0x87, 0x00, 0x00, 0x00, 0x00] [] [(.a0, 0x1234), (.a1, 0x1000)] []) =
      some ([0x34], 6) := by decide

/-- Vector V57. -/
theorem test_step_store16 :
    seeBytes 0x1001 2 (start .x64 [0x3D, 0x87, 0x01, 0x00, 0x00, 0x00] [] [(.a0, 0xABCD1234), (.a1, 0x1000)] []) =
      some ([0x34, 0x12], 6) := by decide

/-- Vector V58. -/
theorem test_step_store32 :
    seeBytes 0x1004 4 (start .x64 [0x3E, 0x87, 0x04, 0x00, 0x00, 0x00] [] [(.a0, 0x11223344AABBCCDD), (.a1, 0x1000)] []) =
      some ([0xDD, 0xCC, 0xBB, 0xAA], 6) := by decide

/-- Vector V59. -/
theorem test_step_store64 :
    seeBytes 0x1008 8 (start .x64 [0x3F, 0x87, 0x08, 0x00, 0x00, 0x00] [] [(.a0, 0x1122334455667788), (.a1, 0x1000)] []) =
      some ([0x88, 0x77, 0x66, 0x55, 0x44, 0x33, 0x22, 0x11], 6) := by decide

/-- Vector V237. -/
theorem test_step_moveReg :
    seeReg .sp (start .x64 [0x64, 0x01] [] [(.ra, 0xDEAD)] []) = some (0xDEAD, 2) := by decide

/-- Vector V221. -/
theorem test_step_countLeadingZeroBits32 :
    seeReg .a0 (start .x64 [0x68, 0x07] [] [(.a0, 0xFFFFFFFF00010000)] []) = some (0xF, 2) := by decide

/-- Vector V225. -/
theorem test_step_countLeadingZeroBits64 :
    seeReg .a0 (start .x64 [0x69, 0x07] [] [(.a0, 0x0)] []) = some (0x40, 2) := by decide

/-- Vector V227. -/
theorem test_step_countTrailingZeroBits32 :
    seeReg .a0 (start .x64 [0x6A, 0x07] [] [(.a0, 0x100000000)] []) = some (0x20, 2) := by decide

/-- Vector V229. -/
theorem test_step_countTrailingZeroBits64 :
    seeReg .a0 (start .x64 [0x6B, 0x07] [] [(.a0, 0x0)] []) = some (0x40, 2) := by decide

/-- Vector V230. -/
theorem test_step_countOnes :
    seeReg .a0 (start .x64 [0x6C, 0x07] [] [(.a0, 0xFFFFFFFF00000001)] []) = some (0x21, 2) := by decide

/-- Vector V233. -/
theorem test_step_swapBytes :
    seeReg .a0 (start .x64 [0x6D, 0x07] [] [(.a0, 0x102030405060708)] []) = some (0x807060504030201, 2) := by decide

/-- Vector V238. -/
theorem test_step_memcpy :
    seeBytes 0x1000 3 (start .x64 [0x6E, 0x78] [] [(.a1, 0x2000), (.a0, 0x1000), (.a2, 0x3)] [(0x2000, 0x01), (0x2001, 0x02), (0x2002, 0x03)]) =
      some ([0x01, 0x02, 0x03], 2) := by decide

/-- Vector V244. -/
theorem test_step_memset :
    seeBytes 0x1000 4 (start .x64 [0x78] [] [(.a0, 0x1000), (.a1, 0x1AB), (.a2, 0x4)] []) =
      some ([0xAB, 0xAB, 0xAB, 0xAB], 1) := by decide

/-- Vector V159. -/
theorem test_step_setLessThanUnsignedImm :
    seeReg .a0 (start .x64 [0x8C, 0x07, 0x0A, 0x00, 0x00, 0x00, 0x00, 0x00, 0x00, 0x00] [] [(.a0, 0x3)] []) =
      some (0x1, 10) := by decide

/-- Vector V165. -/
theorem test_step_setGreaterThanSignedImm :
    seeReg .a0 (start .x64 [0x8D, 0x07, 0xFF, 0xFF, 0xFF, 0xFF, 0x00, 0x00, 0x00, 0x00] [] [(.a0, 0x0)] []) =
      some (0x1, 10) := by decide

/-- Vector V181. -/
theorem test_step_shiftLogicalLeftImmAlt32 :
    seeReg .a0 (start .x64 [0x90, 0x07, 0x20, 0x00, 0x00, 0x00, 0x00, 0x00, 0x00, 0x00] [] [(.a0, 0x5)] []) =
      some (0x5, 10) := by decide

/-- Vector V183. -/
theorem test_step_shiftLogicalRightImmAlt32 :
    seeReg .a0 (start .x64 [0x91, 0x07, 0x04, 0x00, 0x00, 0x00, 0x00, 0x00, 0x00, 0x00] [] [(.a0, 0xFFFFFFFF)] []) =
      some (0xFFFFFFF, 10) := by decide

/-- Vector V186. -/
theorem test_step_shiftArithmeticRightImmAlt32 :
    seeReg .a0 (start .x64 [0x92, 0x07, 0x01, 0x00, 0x00, 0x00, 0x00, 0x00, 0x00, 0x00] [] [(.a0, 0x80000000)] []) =
      some (0xFFFFFFFFC0000000, 10) := by decide

/-- Vector V207. -/
theorem test_step_cmovIfZeroImm :
    seeReg .a0 (start .x64 [0x93, 0x07, 0x07, 0x00, 0x00, 0x00, 0x00, 0x00, 0x00, 0x00] [] [(.a0, 0x0)] []) =
      some (0x7, 10) := by decide

/-- Vector V209. -/
theorem test_step_cmovIfNotZeroImm :
    seeReg .a0 (start .x64 [0x94, 0x07, 0x01, 0x00, 0x00, 0x00, 0x00, 0x00, 0x00, 0x00] [] [(.a0, 0x5)] []) =
      some (0x1, 10) := by decide

/-- Vector V248. -/
theorem test_step_unlikely :
    seeStatus (start .x64 [0x96] [] [] []) = some (.running, 1) := by decide

/-- Vector V28. -/
theorem test_step_fallthrough :
    seeStatus (start .x64 [0x97] [] [] []) = some (.running, 1) := by decide

/-- Vector V182. -/
theorem test_step_shiftLogicalLeftImmAlt64 :
    seeReg .a0 (start .x64 [0x9B, 0x07, 0x04, 0x00, 0x00, 0x00, 0x00, 0x00, 0x00, 0x00] [] [(.a0, 0xF000000000000001)] []) =
      some (0x10, 10) := by decide

/-- Vector V185. -/
theorem test_step_shiftLogicalRightImmAlt64 :
    seeReg .a0 (start .x64 [0x9C, 0x07, 0xFF, 0xFF, 0xFF, 0xFF, 0x00, 0x00, 0x00, 0x00] [] [(.a0, 0xFFFFFFFFFFFFFFFF)] []) =
      some (0x1, 10) := by decide

/-- Vector V187. -/
theorem test_step_shiftArithmeticRightImmAlt64 :
    seeReg .a0 (start .x64 [0x9D, 0x07, 0x08, 0x00, 0x00, 0x00, 0x00, 0x00, 0x00, 0x00] [] [(.a0, 0xFF00000000000000)] []) =
      some (0xFFFF000000000000, 10) := by decide

/-- Vector V196. -/
theorem test_step_rotateRightImm64 :
    seeReg .a0 (start .x64 [0x9E, 0x07, 0x44, 0x00, 0x00, 0x00, 0x00, 0x00, 0x00, 0x00] [] [(.a0, 0x123456789ABCDEF0)] []) =
      some (0x123456789ABCDEF, 10) := by decide

/-- Vector V198. -/
theorem test_step_rotateRightImmAlt64 :
    seeReg .a0 (start .x64 [0x9F, 0x07, 0x44, 0x00, 0x00, 0x00, 0x00, 0x00, 0x00, 0x00] [] [(.a0, 0x123456789ABCDEF0)] []) =
      some (0x123456789ABCDEF, 10) := by decide

/-- Vector V195. -/
theorem test_step_rotateRightImm32 :
    seeReg .a0 (start .x64 [0xA0, 0x07, 0x08, 0x00, 0x00, 0x00, 0x00, 0x00, 0x00, 0x00] [] [(.a0, 0x12345678)] []) =
      some (0x78123456, 10) := by decide

/-- Vector V197. -/
theorem test_step_rotateRightImmAlt32 :
    seeReg .a0 (start .x64 [0xA1, 0x07, 0x08, 0x00, 0x00, 0x00, 0x00, 0x00, 0x00, 0x00] [] [(.a0, 0x12345678)] []) =
      some (0x78123456, 10) := by decide

/-- Vector V11. -/
theorem test_step_branchEq :
    seeStatus (start .x64 [0xAA, 0x32, 0x07, 0x00, 0x00, 0x00, 0x97, 0x97, 0x00] [] [(.t0, 0x100000000), (.t1, 0x0)] []) =
      some (.running, 6) := by decide

/-- Vector V14. -/
theorem test_step_branchNotEq :
    seeStatus ({ start .x64 [0xC9, 0x88, 0x01, 0x00, 0x00, 0x00, 0xAB, 0x28, 0xFA, 0xFF, 0xFF, 0xFF, 0x00] [] [(.a1, 0x1), (.t0, 0x0)] [] with pc := 6 }) =
      some (.running, 0) := by decide

/-- Vector V16. -/
theorem test_step_branchLessUnsigned :
    seeStatus (start .x64 [0xAC, 0x32, 0x06, 0x00, 0x00, 0x00, 0x00] [] [(.t0, 0x1), (.t1, 0xFFFFFFFFFFFFFFFF)] []) =
      some (.running, 6) := by decide

/-- Vector V17. -/
theorem test_step_branchLessSigned :
    seeStatus (start .x64 [0xAD, 0x32, 0x06, 0x00, 0x00, 0x00, 0x00] [] [(.t0, 0x1), (.t1, 0xFFFFFFFFFFFFFFFF)] []) =
      some (.running, 6) := by decide

/-- Vector V21. -/
theorem test_step_branchGreaterOrEqualUnsigned :
    seeStatus (start .x64 [0xAE, 0x32, 0x06, 0x00, 0x00, 0x00, 0x00] [] [(.t0, 0x0), (.t1, 0xFFFFFFFFFFFFFFFF)] []) =
      some (.running, 6) := by decide

/-- Vector V22. -/
theorem test_step_branchGreaterOrEqualSigned :
    seeStatus (start .x64 [0xAF, 0x32, 0x06, 0x00, 0x00, 0x00, 0x00] [] [(.t0, 0x0), (.t1, 0xFFFFFFFFFFFFFFFF)] []) =
      some (.running, 6) := by decide

/-- Vector V72. -/
theorem test_step_add32 :
    seeReg .a0 (start .x64 [0xBE, 0x87, 0x01, 0x00, 0x00, 0x00] [] [(.a1, 0x7FFFFFFF)] []) =
      some (0xFFFFFFFF80000000, 6) := by decide

/-- Vector V84. -/
theorem test_step_sub32 :
    seeReg .a0 (start .x64 [0xBF, 0x87, 0x01, 0x00, 0x00, 0x00] [] [(.a1, 0x80000000)] []) =
      some (0x7FFFFFFF, 6) := by decide

/-- Vector V90. -/
theorem test_step_mul32 :
    seeReg .a0 (start .x64 [0xC0, 0x87, 0x02, 0x00, 0x00, 0x00] [] [(.a1, 0x40000000)] []) =
      some (0xFFFFFFFF80000000, 6) := by decide

/-- Vector V105. -/
theorem test_step_divUnsigned32 :
    seeReg .a0 (start .x64 [0xC1, 0x87] [] [(.a0, 0xFFFFFFFF), (.a1, 0x1)] []) =
      some (0xFFFFFFFFFFFFFFFF, 2) := by decide

/-- Vector V113. -/
theorem test_step_divSigned32 :
    seeReg .a0 (start .x64 [0xC2, 0x87] [] [(.a0, 0xFFFFFFF9), (.a1, 0x2)] []) =
      some (0xFFFFFFFFFFFFFFFD, 2) := by decide

/-- Vector V123. -/
theorem test_step_remUnsigned32 :
    seeReg .a0 (start .x64 [0xC3, 0x87] [] [(.a0, 0xFFFFFFFF), (.a1, 0xA)] []) = some (0x5, 2) := by decide

/-- Vector V128. -/
theorem test_step_remSigned32 :
    seeReg .a0 (start .x64 [0xC4, 0x87] [] [(.a0, 0xFFFFFFF9), (.a1, 0x2)] []) =
      some (0xFFFFFFFFFFFFFFFF, 2) := by decide

/-- Vector V166. -/
theorem test_step_shiftLogicalLeft32 :
    seeReg .a0 (start .x64 [0xC5, 0x87] [] [(.a0, 0x40000001), (.a1, 0x1)] []) =
      some (0xFFFFFFFF80000002, 2) := by decide

/-- Vector V172. -/
theorem test_step_shiftLogicalRight32 :
    seeReg .a0 (start .x64 [0xC6, 0x87] [] [(.a0, 0xFFFFFFFF80000000), (.a1, 0x1F)] []) = some (0x1, 2) := by decide

/-- Vector V176. -/
theorem test_step_shiftArithmeticRight32 :
    seeReg .a0 (start .x64 [0xC7, 0x87] [] [(.a0, 0x80000000), (.a1, 0x1F)] []) =
      some (0xFFFFFFFFFFFFFFFF, 2) := by decide

/-- Vector V79. -/
theorem test_step_add64 :
    seeReg .a0 (start .x64 [0xC8, 0x87, 0x01, 0x00, 0x00, 0x00] [] [(.a1, 0x7FFFFFFFFFFFFFFF)] []) =
      some (0x8000000000000000, 6) := by decide

/-- Vector V87. -/
theorem test_step_sub64 :
    seeReg .a0 (start .x64 [0xC9, 0x87, 0x01, 0x00, 0x00, 0x00] [] [(.a1, 0x8000000000000000)] []) =
      some (0x7FFFFFFFFFFFFFFF, 6) := by decide

/-- Vector V93. -/
theorem test_step_mul64 :
    seeReg .a0 (start .x64 [0xCA, 0x87, 0x03, 0x00, 0x00, 0x00] [] [(.a1, 0x5555555555555556)] []) =
      some (0x2, 6) := by decide

/-- Vector V112. -/
theorem test_step_divUnsigned64 :
    seeReg .a0 (start .x64 [0xCB, 0x77] [] [(.a0, 0x9)] []) = some (0x1, 2) := by decide

/-- Vector V119. -/
theorem test_step_divSigned64 :
    seeReg .a0 (start .x64 [0xCC, 0x87] [] [(.a0, 0xFFFFFFFFFFFFFFF9), (.a1, 0xFFFFFFFFFFFFFFFE)] []) =
      some (0x3, 2) := by decide

/-- Vector V125. -/
theorem test_step_remUnsigned64 :
    seeReg .a0 (start .x64 [0xCD, 0x87] [] [(.a0, 0x30), (.a1, 0x12)] []) = some (0xC, 2) := by decide

/-- Vector V131. -/
theorem test_step_remSigned64 :
    seeReg .a0 (start .x64 [0xCE, 0x87] [] [(.a0, 0xFFFFFFFFFFFFFFF9), (.a1, 0xFFFFFFFFFFFFFFFE)] []) =
      some (0xFFFFFFFFFFFFFFFF, 2) := by decide

/-- Vector V170. -/
theorem test_step_shiftLogicalLeft64 :
    seeReg .a0 (start .x64 [0xCF, 0x87] [] [(.a0, 0x3), (.a1, 0x40)] []) = some (0x3, 2) := by decide

/-- Vector V175. -/
theorem test_step_shiftLogicalRight64 :
    seeReg .a0 (start .x64 [0xD0, 0x87] [] [(.a0, 0x8000000000000000), (.a1, 0x7F)] []) = some (0x1, 2) := by decide

/-- Vector V179. -/
theorem test_step_shiftArithmeticRight64 :
    seeReg .a0 (start .x64 [0xD1, 0x87] [] [(.a0, 0x80000000), (.a1, 0x4)] []) = some (0x8000000, 2) := by decide

/-- Vector V138. -/
theorem test_step_bitwiseAnd :
    seeReg .a0 (start .x64 [0xD2, 0x87, 0xFF, 0xFF, 0xFF, 0xFF] [] [(.a1, 0x123456789ABCDEF0)] []) =
      some (0x123456789ABCDEF0, 6) := by decide

/-- Vector V142. -/
theorem test_step_bitwiseXor :
    seeReg .a0 (start .x64 [0xD3, 0x87, 0xFF, 0xFF, 0xFF, 0xFF] [] [(.a1, 0x123456789ABCDEF0)] []) =
      some (0xEDCBA9876543210F, 6) := by decide

/-- Vector V141. -/
theorem test_step_bitwiseOr :
    seeReg .a0 (start .x64 [0xD4, 0x87, 0x00, 0x00, 0x00, 0x80] [] [(.a1, 0x0)] []) =
      some (0xFFFFFFFF80000000, 6) := by decide

/-- Vector V95. -/
theorem test_step_mulUpperSignedSigned :
    seeReg .a0 (start .x64 [0xD5, 0x87] [] [(.a0, 0xFFFFFFFFFFFFFFFF), (.a1, 0x2)] []) =
      some (0xFFFFFFFFFFFFFFFF, 2) := by decide

/-- Vector V97. -/
theorem test_step_mulUpperUnsignedUnsigned :
    seeReg .a0 (start .x64 [0xD6, 0x87] [] [(.a0, 0xFFFFFFFFFFFFFFFF), (.a1, 0xFFFFFFFFFFFFFFFF)] []) =
      some (0xFFFFFFFFFFFFFFFE, 2) := by decide

/-- Vector V99. -/
theorem test_step_mulUpperSignedUnsigned :
    seeReg .a0 (start .x64 [0xD7, 0x87] [] [(.a0, 0xFFFFFFFFFFFFFFFF), (.a1, 0x2)] []) =
      some (0xFFFFFFFFFFFFFFFF, 2) := by decide

/-- Vector V152. -/
theorem test_step_setLessThanUnsigned :
    seeReg .a0 (start .x64 [0xD8, 0x87, 0xFF, 0xFF, 0xFF, 0xFF] [] [(.a1, 0x5), (.a0, 0x9)] []) =
      some (0x1, 6) := by decide

/-- Vector V156. -/
theorem test_step_setLessThanSigned :
    seeReg .a0 (start .x64 [0xD9, 0x87, 0x00, 0x00, 0x00, 0x00] [] [(.a1, 0xFFFFFFFFFFFFFFFB), (.a0, 0x9)] []) =
      some (0x1, 6) := by decide

/-- Vector V204. -/
theorem test_step_cmovIfZero :
    seeReg .a0 (start .x64 [0xDA, 0x77, 0xFF, 0xFF, 0xFF, 0xFF] [] [(.a0, 0x0)] []) =
      some (0xFFFFFFFFFFFFFFFF, 6) := by decide

/-- Vector V205. -/
theorem test_step_cmovIfNotZero :
    seeReg .a0 (start .x64 [0xDB, 0x87, 0xFF, 0xFF, 0xFF, 0xFF] [] [(.a0, 0x9), (.a1, 0x100000000)] []) =
      some (0xFFFFFFFFFFFFFFFF, 6) := by decide

/-- Vector V191. -/
theorem test_step_rotateLeft64 :
    seeReg .a0 (start .x64 [0xDC, 0x87] [] [(.a0, 0x123456789ABCDEF0), (.a1, 0x0)] []) =
      some (0x123456789ABCDEF0, 2) := by decide

/-- Vector V189. -/
theorem test_step_rotateLeft32 :
    seeReg .a0 (start .x64 [0xDD, 0x87] [] [(.a0, 0x40000000), (.a1, 0x1)] []) =
      some (0xFFFFFFFF80000000, 2) := by decide

/-- Vector V194. -/
theorem test_step_rotateRight64 :
    seeReg .a0 (start .x64 [0xDE, 0x87] [] [(.a0, 0x1), (.a1, 0x1)] []) = some (0x8000000000000000, 2) := by decide

/-- Vector V193. -/
theorem test_step_rotateRight32 :
    seeReg .a0 (start .x64 [0xDF, 0x87] [] [(.a0, 0x12345678), (.a1, 0x28)] []) = some (0x78123456, 2) := by decide

/-- Vector V144. -/
theorem test_step_andInverted :
    seeReg .a0 (start .x64 [0xE0, 0x87, 0xFF, 0x00, 0x00, 0x00] [] [(.a1, 0x123456789ABCDEF0)] []) =
      some (0x123456789ABCDE00, 6) := by decide

/-- Vector V147. -/
theorem test_step_orInverted :
    seeReg .a0 (start .x64 [0xE1, 0x87, 0xFF, 0x00, 0x00, 0x00] [] [(.a1, 0x0)] []) =
      some (0xFFFFFFFFFFFFFF00, 6) := by decide

/-- Vector V148. -/
theorem test_step_xnor :
    seeReg .a0 (start .x64 [0xE2, 0x87, 0x00, 0x00, 0x00, 0x00] [] [(.a1, 0x123456789ABCDEF0)] []) =
      some (0xEDCBA9876543210F, 6) := by decide

/-- Vector V213. -/
theorem test_step_maximum :
    seeReg .a0 (start .x64 [0xE3, 0x87, 0x07, 0x00, 0x00, 0x00] [] [(.a1, 0x7)] []) = some (0x7, 6) := by decide

/-- Vector V214. -/
theorem test_step_maximumUnsigned :
    seeReg .a0 (start .x64 [0xE4, 0x87, 0xFF, 0xFF, 0xFF, 0xFF] [] [(.a1, 0x7)] []) =
      some (0xFFFFFFFFFFFFFFFF, 6) := by decide

/-- Vector V217. -/
theorem test_step_minimum :
    seeReg .a0 (start .x64 [0xE5, 0x87, 0x00, 0x00, 0x00, 0x00] [] [(.a1, 0x8000000000000000)] []) =
      some (0x8000000000000000, 6) := by decide

/-- Vector V219. -/
theorem test_step_minimumUnsigned :
    seeReg .a0 (start .x64 [0xE6, 0x87, 0x64, 0x00, 0x00, 0x00] [] [(.a1, 0xFFFFFFFFFFFFFFFB)] []) =
      some (0x64, 6) := by decide

/-- The instruction of a table word is the first that runs after reset. -/
theorem test_step_withFetchWord :
    seeReg .a0 (State.reset.withFetchWord 48 0x0000000787C8) = some (7, 6) := by decide

/-- From reset with nothing placed the first step traps: the code is empty (assumption log 9). -/
theorem test_step_reset : seeStatus State.reset = some (.trapped .invalidTarget, 0) := by decide

/-- A resumed host call goes on behind the `ecalli` with the host's registers. -/
theorem test_step_resume :
    seeReg .a0 { State.reset with
      status := .inHostCall 7, pc := 5, hostAnswers := [.resume { RegFile.atReset with a0 := 9 } []] } =
      some (9, 5) := by decide

/-! ## Witnesses: encoding, fetch, host calls -/

/-- `o` is a next state. -/
def completes (o : Result) : Bool := (after o).isSome

theorem witness_EncodeOfDecode : decode [0x78, 0xFF] = .ok .memset := rfl

theorem witness_UnassignedOpcodesAreInvalid :
    ∀ op ∈ [1#8, 9#8, 231#8, 255#8],
      ((1 ≤ op.toNat ∧ op.toNat ≤ 9) ∨ (231 ≤ op.toNat ∧ op.toNat ≤ 255)) ∧
        (start .x64 [op, 0] [] [] []).status = .running ∧
        (start .x64 [op, 0] [] [] []).params.codec = .reference ∧
        isStart (start .x64 [op, 0] [] [] []).params 0 = true ∧
        (start .x64 [op, 0] [] [] []).params.code.drop 0 = op :: [0] := by decide

theorem witness_InvalidExactlyWhen :
    decode [0x64, 0xCC] = .ok (.moveReg .a5 .a5) ∧ decode [0x64, 0xCD] = .error (.badRegister 13) ∧
      decode [0x64] = .error .truncated := ⟨rfl, rfl, rfl⟩

/-- `fallthrough`, then `move_reg A0, A1`. -/
def twoInstrs : State := start .x64 [0x97, 0x64, 0x87] [] [] []

/-- Six code bytes under another codec: `add_32 A0, A1, 5` in 3 bytes, `fallthrough` in 2, then one that would reach past
the code. -/
def otherCodec : State :=
  { start .x64 [0, 0, 0, 0, 0, 0] [] [(.a1, 7)] [] with
    params := { (start .x64 [0, 0, 0, 0, 0, 0] [] [] []).params with
      codec := .table [⟨0, .add32 .a0 .a1 5, 3⟩, ⟨3, .fallthrough, 2⟩, ⟨5, .memset, 2⟩, ⟨1, .trap, 1⟩] } }

theorem test_other_codec_starts :
    (List.range 7).map (isStart otherCodec.params) = [true, false, false, true, false, true, false] := by decide

theorem test_other_codec_step :
    (after (step otherCodec)).map (fun t => (t.pc, t.uval .a0, t.status)) = some (3, 12, .running) := by decide

theorem witness_StepRunsDecodedInstruction :
    isStart { twoInstrs with pc := 1 }.params 1 = true ∧ twoInstrs.status = .running ∧
      twoInstrs.params.codec = .reference ∧
      decode ({ twoInstrs with pc := 1 }.params.code.drop 1) = .ok (.moveReg .a0 .a1) ∧
      otherCodec.status = .running ∧ isStart otherCodec.params 0 = true ∧
      progAt otherCodec.params 0 = some (.add32 .a0 .a1 5, 3) := ⟨by decide, rfl, rfl, rfl, rfl, by decide, by decide⟩

theorem witness_FetchTraps :
    twoInstrs.status = .running ∧ twoInstrs.params.code.length ≤ 3 ∧ isStart twoInstrs.params 2 = false ∧
      isStart (start .x64 [0x01] [] [] []).params 0 = true ∧ decode [0x01] = .error (.unassignedOpcode 1) ∧
      isStart otherCodec.params 5 = true ∧ progAt otherCodec.params 5 = none := by decide

theorem witness_TrappedMachineIsFinal : (twoInstrs.trap .explicit).status = .trapped .explicit := rfl

/-- In host call 4294967295, with the given answers. -/
def calling (answers : List HostAnswer) : State :=
  { twoInstrs with status := .inHostCall 0xFFFFFFFF, hostAnswers := answers }

theorem witness_StepsThatDoNotExistAreFaults :
    (twoInstrs.trap .divisionByZero).status = .trapped .divisionByZero ∧
      (calling [.stop]).status = .inHostCall 0xFFFFFFFF ∧ (calling [.stop]).hostAnswer 0xFFFFFFFF = .stop := by decide

theorem witness_HostResumes :
    (calling [.resume RegFile.atReset [(0x200F, 5)]]).status = .inHostCall 0xFFFFFFFF ∧
      (calling [.resume RegFile.atReset [(0x200F, 5)]]).hostAnswer 0xFFFFFFFF =
        .resume RegFile.atReset [(0x200F, 5)] ∧
      accessAt twoInstrs.params 0x2010 = .none ∧ (0x2010 : Nat) ∉ [((0x200F : Nat), (5 : Byte))].map Prod.fst ∧
      ([((0x200F : Nat), (5 : Byte))].map Prod.fst).Nodup ∧ accessAt twoInstrs.params 0x200F ≠ .none := by decide

/-- Two machines that look alike to the host and differ elsewhere. -/
theorem witness_HostResumes_unassumed :
    (calling []).status = .inHostCall 0xFFFFFFFF ∧ (calling []).hostAnswers = [] ∧
      ((calling []).drawFree 1).hostAnswers = [] ∧ ((calling []).drawFree 1).params = (calling []).params ∧
      (∀ r, ((calling []).drawFree 1).uval r = (calling []).uval r) ∧
      ((calling []).drawFree 1).pc = (calling []).pc ∧ ((calling []).drawFree 1).mem = (calling []).mem ∧
      (calling []).drawFree 1 ≠ calling [] :=
  ⟨rfl, rfl, rfl, rfl, fun _ => rfl, rfl, rfl, by decide⟩

theorem witness_RunningMachineAlwaysSteps :
    State.reset.status = .running ∧ State.reset.params.remTrapsLikeDiv = true ∧
      State.reset.params.altSwapsOperands = false := by decide

theorem witness_ParametersNeverChange : completes (step twoInstrs) = true := by decide

theorem witness_TrapsArePrecise :
    State.reset.status = .running ∧ seeStatus State.reset = some (.trapped .invalidTarget, 0) := by decide

theorem witness_OnlyEcalliCallsTheHost :
    twoInstrs.status = .running ∧
      (after (exec (.ecalli 0xFFFFFFFF) twoInstrs)).map State.status = some (.inHostCall 0xFFFFFFFF) := by decide

theorem witness_OnlyListedInstructionsTrap :
    (start .x32 [] [] [] []).status = .running ∧ twoInstrs.status = .running ∧
      completes (exec (.add32 .a0 .a1 1) (start .x32 [] [] [] [])) = true ∧
      completes (exec (.add64 .a0 .a1 1) twoInstrs) = true ∧
      opcodeOf (.add32 .a0 .a1 1) = 190 ∧ opcodeOf (.add64 .a0 .a1 1) = 200 ∧ twoInstrs.params.mode = .x64 := by decide

theorem witness_SixtyFourBitFormsTrapIn32BitMode :
    (start .x32 [] [] [] []).params.mode = .x32 ∧ opcodeOf (.loadImmU64 .a0 1) = 23 ∧
      opcodeOf (.rotateRight64 .a0 .a1) = 222 := by decide

/-- `store_8 A0, A1, 0` at 0x1000. -/
def storing : State := start .x64 [0x3C, 0x87, 0, 0, 0, 0] [] [(.a0, 0x1234), (.a1, 0x1000)] []

theorem witness_GuestWritesOnlyWritableBytes :
    storing.status = .running ∧ completes (step storing) = true ∧ accessAt storing.params 0x1010 ≠ .rw ∧
      accessAt storing.params 0x2000 ≠ .rw := by decide

theorem witness_PcStaysOnInstructionStarts :
    storing.pcFits ∧ completes (step storing) = true ∧ { storing with pc := 6 }.pcFits ∧
      completes (step { storing with pc := 6 }) = true :=
  ⟨.inl (by decide), by decide, .inr rfl, by decide⟩

theorem witness_RegistersAndMemoryStayFit :
    storing.regsFit ∧ storing.memFits ∧ completes (step storing) = true :=
  ⟨fun r => by cases r <;> decide, ⟨by decide, by decide⟩, by decide⟩

theorem witness_LaunchState :
    ([((0x1000 : Nat), (1 : Byte)), (0x100F, 2)].map Prod.fst).Nodup ∧
      ((0x100F : Nat), (2 : Byte)) ∈ [((0x1000 : Nat), (1 : Byte)), (0x100F, 2)] ∧
      accessAt storing.params 0x100F ≠ .none := by decide

/-! ## Witnesses: memory -/

/-- The writable bytes are the last address and the first seven; A0 and A1 hold the last address. -/
def wrapping : State :=
  State.launch { Params.atReset with access := [⟨2 ^ 64 - 1, 1, .rw⟩, ⟨0, 7, .rw⟩] } 0
    { RegFile.atReset with a0 := 0xFFFFFFFFFFFFFFFF, a1 := 0xFFFFFFFFFFFFFFFF } [] []

theorem witness_StoredValueReadsBack :
    (wrapping.memWrite (0xFFFFFFFFFFFFFFFF : BitVec wrapping.xlen) 8 0x1122334455667788).isOk = true ∧
      (wrapping.memWrite (0xFFFFFFFFFFFFFFFF : BitVec wrapping.xlen) 1 0x88).isOk = true := by decide

theorem witness_BlocksMeetMeansSharedAddress :
    255 < 2 ^ 8 ∧ blocksMeet (0#8) (254#8) 3 = true ∧ blocksMeet (0#8) (254#8) 2 = false := by decide

theorem witness_ZeroExtendingLoads :
    (wrapping.effAddr .a1 0).toNat = 0xFFFFFFFFFFFFFFFF ∧ wrapping.params.mode = .x64 ∧
      ∀ i, i < 8 → accessAt wrapping.params (wrapping.wrap 0xFFFFFFFFFFFFFFFF i) ≠ .none := by decide

theorem witness_SignExtendingLoads :
    (wrapping.effAddr .a1 (-1)).toNat = 0xFFFFFFFFFFFFFFFE ∧ (wrapping.effAddr .a1 4).toNat = 3 ∧
      ∀ i, i < 4 → accessAt wrapping.params (wrapping.wrap 3 i) ≠ .none := by decide

theorem witness_Stores :
    wrapping.params.mode = .x64 ∧
      ∀ j, j < 8 → accessAt wrapping.params (wrapping.wrap (wrapping.effAddr .a1 0).toNat j) = .rw := by decide

theorem witness_StoreImmediates :
    wrapping.params.mode = .x64 ∧ wrapping.params.storeImmAddr = .a0 ∧
      ∀ j, j < 8 → accessAt wrapping.params (wrapping.wrap (wrapping.storeImmAddress 5).toNat j) = .rw := by decide

theorem witness_BadAccessesTrap :
    wrapping.params.mode = .x64 ∧
      (∃ j, j < 8 ∧ accessAt wrapping.params (wrapping.wrap (wrapping.effAddr .a1 1).toNat j) = .none) ∧
      (∃ j, j < 1 ∧ accessAt storing.params (storing.wrap (storing.effAddr .a1 0x1000).toNat j) ≠ .rw) ∧
      (∃ j, j < 4 ∧ accessAt storing.params (storing.wrap (storing.storeImmAddress 0).toNat j) ≠ .rw) :=
  ⟨rfl, ⟨7, by decide⟩, ⟨0, by decide⟩, ⟨3, by decide⟩⟩

theorem witness_MemcpyCopies :
    let s := start .x64 [] [] [(.a1, 0x1000), (.a0, 0x1004), (.a2, 4), (.a3, 0x5000)] []
    s.uval .a2 = 4 ∧ (∀ i, i < 4 → accessAt s.params (s.wrap (s.uval .a1) i) ≠ .none) ∧
      (∀ i, i < 4 → accessAt s.params (s.wrap (s.uval .a0) i) = .rw) ∧
      (∀ i, i < 4 → ∀ j, j < 4 → s.wrap (s.uval .a1) i ≠ s.wrap (s.uval .a0) j) ∧ s.uval .t0 = 0 := by decide

theorem witness_MemcpyOfOverlappingBlocks :
    let s := start .x64 [] [] [(.a1, 0x1000), (.a0, 0x1001), (.a2, 2)] []
    s.uval .a2 = 2 ∧ (∀ i, i < 2 → accessAt s.params (s.wrap (s.uval .a1) i) ≠ .none) ∧
      (∀ i, i < 2 → accessAt s.params (s.wrap (s.uval .a0) i) = .rw) ∧ s.uval .a1 ≠ s.uval .a0 ∧
      s.wrap (s.uval .a1) 1 = s.wrap (s.uval .a0) 0 := by decide

theorem witness_MemsetFills :
    let s := start .x64 [] [] [(.a0, 0x1000), (.a1, 0x1AB), (.a2, 16)] []
    s.uval .a2 = 16 ∧ ∀ i, i < 16 → accessAt s.params (s.wrap (s.uval .a0) i) = .rw := by decide

theorem witness_BlockTrapsWriteNothing :
    let s := start .x64 [] [] [(.a0, 0x1000), (.a1, 0x2000), (.a2, 17)] []
    16 < s.uval .a2 ∧ accessAt s.params (s.wrap (s.uval .a1) 16) = .none ∧
      accessAt s.params (s.wrap (s.uval .a1) 0) ≠ .rw ∧ accessAt s.params (s.wrap (s.uval .a0) 16) ≠ .rw := by decide

/-! ## Witnesses: control flow -/

theorem witness_HintsDoNothing :
    (start .x64 [0x97] [] [] []).status = .running ∧
      (start .x64 [0x97] [] [] []).pc + (start .x64 [0x97] [] [] []).len 1 =
        (start .x64 [0x97] [] [] []).params.code.length := by decide

theorem starts_lt {p : Params} {t : Nat} (h : Starts p t) : t < p.code.length := by
  cases h <;> assumption

/-- `jump` through a table of two entries, the second past the end of the code. -/
def jumping : State := start .x64 [0x28, 1, 0, 0, 0] [0, 5] [] []

theorem witness_JumpThroughTable :
    (jumping.params.jumpTable[(0 : Imm32).toNat]? = some 0 ∧ Starts jumping.params 0) ∧
      (jumping.params.jumpTable[(1 : Imm32).toNat]? = some 5 ∧ ¬ Starts jumping.params 5) ∧
      jumping.params.jumpTable.length ≤ (2 : Imm32).toNat :=
  ⟨⟨rfl, .first (by decide)⟩, ⟨rfl, fun h => absurd (starts_lt h) (by decide)⟩, by decide⟩

/-- A branch behind a `fallthrough`, with T0 = 5, T1 = 5, T2 = 4 and S0 = -1. -/
def branching : State :=
  { start .x64 [0x97, 0xAA, 0x32, 7, 0, 0, 0] [] [(.t0, 5), (.t1, 5), (.t2, 4), (.s0, 0xFFFFFFFFFFFFFFFF)] [] with
    pc := 1 }

theorem witness_BranchesTakeTheirTarget_conditions :
    branching.uval .t0 = branching.uval .t1 ∧ branching.uval .t0 ≠ branching.uval .t2 ∧
      branching.uval .t2 < branching.uval .s0 ∧ branching.sval .s0 < branching.sval .t2 ∧
      branching.uval .t0 ≥ branching.uval .t1 ∧ branching.sval .t0 ≥ branching.sval .t1 ∧
      ¬ branching.sval .t2 < branching.sval .s0 ∧ ¬ branching.uval .t2 ≥ branching.uval .s0 := by decide

theorem witness_BranchesTakeTheirTarget_targets :
    (((0 : Nat) : Int) = branching.pc + (-1 : Imm32).toInt ∧ Starts branching.params 0) ∧
      (∀ t : Nat, Starts branching.params t → (t : Int) ≠ branching.pc + (-2 : Imm32).toInt) ∧
      ∀ t : Nat, Starts branching.params t → (t : Int) ≠ branching.pc + (6 : Imm32).toInt := by
  refine ⟨⟨by decide, .first (by decide)⟩, fun t _ h => ?_, fun t ht h => ?_⟩
  · rw [show (branching.pc : Int) + (-2 : Imm32).toInt = -1 by decide] at h
    omega
  · have hl : t < 7 := starts_lt ht
    rw [show (branching.pc : Int) + (6 : Imm32).toInt = 7 by decide] at h
    omega

/-! ## Witnesses: arithmetic and logic -/

/-- A0 and A1 in 64-bit mode. -/
def pair (a b : Word) : State := start .x64 [] [] [(.a0, a), (.a1, b)] []

theorem witness_in_64_bit_mode_LoadImmediates_AddSubMul64 : (pair 0 0).params.mode = .x64 := rfl

theorem witness_Divisions_and_Remainders :
    let s := pair 0x8000000080000000 0xFFFFFFFFFFFFFFFF
    s.lowU 32 .a1 ≠ 0 ∧ s.uval .a1 ≠ 0 ∧ s.params.mode = .x64 ∧
      ¬ (s.sval .a0 = -2 ^ 63 ∧ s.sval .a1 = -1) ∧
      ¬ ((pair 0x80000001 0xFFFFFFFF).lowS 32 .a0 = -2 ^ 31 ∧ (pair 0x80000001 0xFFFFFFFF).lowS 32 .a1 = -1) := by
  decide

theorem witness_DivisionTraps_by_zero :
    (pair 7 0x100000000).lowU 32 .a1 = 0 ∧ (pair 7 0).lowU 64 .a1 = 0 ∧
      (pair 7 0).params.remTrapsLikeDiv = true ∧ (pair 7 0).params.mode = .x64 := by decide

theorem witness_DivisionTraps_overflow :
    ((pair 0x80000000 0xFFFFFFFF).lowS 32 .a0 = -2 ^ (32 - 1) ∧ (pair 0x80000000 0xFFFFFFFF).lowS 32 .a1 = -1) ∧
      (pair 0x8000000000000000 0xFFFFFFFFFFFFFFFF).lowS 64 .a0 = -2 ^ (64 - 1) ∧
      (pair 0x8000000000000000 0xFFFFFFFFFFFFFFFF).lowS 64 .a1 = -1 := by decide

theorem witness_RemaindersWithoutResultAreRefused :
    let s := { pair 0x8000000000000000 0xFFFFFFFFFFFFFFFF with
      params := { Params.atReset with remTrapsLikeDiv := false } }
    s.params.remTrapsLikeDiv = false ∧ s.params.mode = .x64 ∧ s.sval .a0 = -2 ^ 63 ∧ s.sval .a1 = -1 ∧
      s.uval .t0 = 0 ∧ s.lowU 32 .t0 = 0 := by decide

theorem witness_QuotientAndRemainderAgree :
    let s := pair 0xFFFFFFFFFFFFFFF9 2
    s.params.mode = .x64 ∧ s.status = .running ∧
      (after (exec (.divSigned64 .a0 .a1) s)).map State.status = some .running ∧
      (after (exec (.remSigned64 .a0 .a1) s)).map State.status = some .running := by decide

theorem witness_LogicalInstructions :
    ∃ (i : Instr) (f : Bool → Bool → Bool), i = .xnor .a0 .a1 (-1) ∧ f = fun a b => a == b := ⟨_, _, rfl, rfl⟩

theorem witness_Shifts_and_Rotates :
    let s := pair 1 0xFFFFFFFFFFFFFFFF
    s.uval .a1 % 32 = 31 ∧ s.uval .a1 % 64 = 63 ∧ s.uval .t0 % 64 = 0 ∧ (63 : Imm32).toNat % 32 = 31 ∧
      (64 : Imm32).toNat % 64 = 0 ∧ s.params.altSwapsOperands = false ∧ s.params.mode = .x64 := by decide

theorem witness_SwappedAltFormsAreRefused :
    let s := { pair 1 1 with params := { Params.atReset with altSwapsOperands := true } }
    s.params.altSwapsOperands = true ∧ s.params.mode = .x64 := by decide

theorem witness_ConditionalMoves :
    (pair 1 0).uval .a1 = 0 ∧ (pair 1 0x8000000000000000).uval .a1 ≠ 0 := by decide

theorem witness_LeadingZeroCounts_and_TrailingZeroCounts :
    (pair 0x8000000000000000 0).lowU 32 .a0 = 0 ∧ (pair 0x8000000000000000 0).lowU 64 .a0 ≠ 0 ∧
      (pair 0 0).params.mode = .x64 ∧ (start .x32 [] [] [] []).params.mode = .x32 := by decide

end Sys2Proof.Tests
end

section
/-! PROOFS. When the reference decoder answers `invalid` (30_encoding.md rule R67): what each reader of an operand field
asks of the bytes, what the fields of a format ask together, and the opcode map by length and kind of register byte. -/

namespace Sys2Proof.Encoding

/-! ## Readers that answer -/

/-- A reader of the decoder answers a value. -/
def Succeeds {α : Type} (x : Except DecodeError α) : Prop := ∃ a, x = .ok a

@[simp] theorem succeeds_ok {α : Type} (a : α) : Succeeds (.ok a) := ⟨a, rfl⟩

@[simp] theorem succeeds_pure {α : Type} (a : α) : Succeeds (pure a) := ⟨a, rfl⟩

@[simp] theorem not_succeeds_error {α : Type} (e : DecodeError) : ¬ Succeeds (.error e : Except DecodeError α) := by
  rintro ⟨a, ⟨⟩⟩

theorem exists_error_iff {α : Type} (x : Except DecodeError α) : (∃ e, x = .error e) ↔ ¬ Succeeds x := by
  cases x <;> simp

theorem bind_eq_ok_iff {α β : Type} (x : Except DecodeError α) (f : α → Except DecodeError β) (b : β) :
    x >>= f = .ok b ↔ ∃ a, x = .ok a ∧ f a = .ok b := by
  cases x <;> simp [bind, Except.bind]

theorem succeeds_bind_iff {α β : Type} (x : Except DecodeError α) (f : α → Except DecodeError β) :
    Succeeds (x >>= f) ↔ ∃ a, x = .ok a ∧ Succeeds (f a) := by
  cases x <;> simp [bind, Except.bind]

theorem succeeds_bind_iff_and {α β : Type} {x : Except DecodeError α} {f : α → Except DecodeError β} {P : Prop}
    (hf : ∀ a, x = .ok a → (Succeeds (f a) ↔ P)) : Succeeds (x >>= f) ↔ Succeeds x ∧ P := by
  cases x with
  | error e => simp [succeeds_bind_iff]
  | ok a => simp [succeeds_bind_iff, hf a rfl]

theorem succeeds_map_iff {α β : Type} (x : Except DecodeError α) (g : α → β) : Succeeds (x.map g) ↔ Succeeds x := by
  cases x <;> simp [Except.map]

/-! ## Register fields and register bytes -/

/-- The kind of register byte that a format has first: 0 none, 1 `RB1`, 2 `RB2` (rule R64). -/
def registerByteKind : Format → Nat
  | .argless | .offset | .imm | .immImm => 0
  | .reg | .regImm | .regImmOffset | .regImmImm | .regImm64 => 1
  | .regReg | .regRegImm | .regRegOffset | .regRegReg | .regRegImmImm => 2

/-- A first byte, where there is one, is in range as a register byte of the kind (rules R64, R81). -/
def RegisterByteFits (kind : Nat) (bs : List Byte) : Prop :=
  ∀ b ∈ bs.head?, (kind = 1 → b.toNat < 13) ∧ (kind = 2 → b.toNat % 16 < 13 ∧ b.toNat / 16 < 13)

@[simp] theorem registerByteFits_zero (bs : List Byte) : RegisterByteFits 0 bs := by simp [RegisterByteFits]

theorem registerByteFits_one_cons (b : Byte) (t : List Byte) : RegisterByteFits 1 (b :: t) ↔ b.toNat < 13 := by
  simp [RegisterByteFits]

theorem registerByteFits_two_cons (b : Byte) (t : List Byte) :
    RegisterByteFits 2 (b :: t) ↔ b.toNat % 16 < 13 ∧ b.toNat / 16 < 13 := by
  simp [RegisterByteFits]

theorem lowNibble_toNat (b : Byte) : (b.extractLsb' 0 4).toNat = b.toNat % 16 := by simp

theorem highNibble_toNat (b : Byte) : (b.extractLsb' 4 4).toNat = b.toNat / 16 := by
  have hb : b.toNat < 256 := b.isLt
  rw [BitVec.extractLsb'_toNat, Nat.shiftRight_eq_div_pow]
  omega

theorem highNibble_eq_zero_iff (b : Byte) : b.extractLsb' 4 4 = 0 ↔ b.toNat < 16 := by
  rw [← BitVec.toNat_inj, highNibble_toNat]
  simp [Nat.div_eq_zero_iff]

theorem regOfNum_isSome_iff (n : Nat) : (regOfNum n).isSome ↔ n < 13 := by
  rcases Nat.lt_or_ge n 13 with hlt | hge
  · interval_cases n <;> simp [regOfNum]
  · obtain ⟨k, rfl⟩ := Nat.exists_eq_add_of_le' hge
    simp [regOfNum]

theorem succeeds_regField_iff (v : BitVec 4) : Succeeds (regField v) ↔ v.toNat < 13 := by
  rw [← regOfNum_isSome_iff, regField]
  cases regOfNum v.toNat <;> simp

/-! ## The readers of one operand field -/

theorem succeeds_takeReg_iff (bs : List Byte) :
    Succeeds (takeReg bs) ↔ 1 ≤ bs.length ∧ RegisterByteFits 1 bs := by
  rcases bs with _ | ⟨b, t⟩
  · simp [takeReg]
  rw [registerByteFits_one_cons, takeReg]
  split
  case isTrue hhigh =>
    have hb : b.toNat < 16 := (highNibble_eq_zero_iff b).mp hhigh
    rw [succeeds_map_iff, succeeds_regField_iff, lowNibble_toNat]
    simp only [List.length_cons]
    omega
  case isFalse hhigh =>
    have hb : ¬ b.toNat < 16 := fun h => hhigh ((highNibble_eq_zero_iff b).mpr h)
    simp only [not_succeeds_error, false_iff]
    omega

theorem rest_of_takeReg {bs t : List Byte} {r : Reg} (h : takeReg bs = .ok (r, t)) : t = bs.tail := by
  rcases bs with _ | ⟨b, t⟩
  · cases h
  rw [takeReg] at h
  split at h
  · cases hr : regField (b.extractLsb' 0 4) <;> rw [hr] at h <;> cases h
    rfl
  · cases h

theorem succeeds_takeRegs_iff (bs : List Byte) :
    Succeeds (takeRegs bs) ↔ 1 ≤ bs.length ∧ RegisterByteFits 2 bs := by
  rcases bs with _ | ⟨b, t⟩
  · simp [takeRegs]
  rw [registerByteFits_two_cons, ← lowNibble_toNat, ← highNibble_toNat, ← succeeds_regField_iff,
    ← succeeds_regField_iff, takeRegs, succeeds_bind_iff_and fun _ _ => succeeds_bind_iff_and fun _ _ =>
      iff_true_intro (succeeds_pure _)]
  simp

theorem rest_of_takeRegs {bs t : List Byte} {r1 r2 : Reg} (h : takeRegs bs = .ok (r1, r2, t)) : t = bs.tail := by
  rcases bs with _ | ⟨b, t⟩
  · cases h
  · simp only [takeRegs, bind_eq_ok_iff] at h
    obtain ⟨_, -, _, -, ⟨⟩⟩ := h
    rfl

theorem takeImm32_of_length_lt {bs : List Byte} (h : bs.length < 4) : takeImm32 bs = .error .truncated := by
  unfold takeImm32
  split
  · simp only [List.length_cons] at h; omega
  · rfl

theorem takeImm32_of_le_length {bs : List Byte} (h : 4 ≤ bs.length) : ∃ v, takeImm32 bs = .ok (v, bs.drop 4) := by
  match bs, h with
  | _ :: _ :: _ :: _ :: _, _ => exact ⟨_, rfl⟩

theorem takeImm64_of_length_lt {bs : List Byte} (h : bs.length < 8) : takeImm64 bs = .error .truncated := by
  unfold takeImm64
  split
  · simp only [List.length_cons] at h; omega
  · rfl

theorem takeImm64_of_le_length {bs : List Byte} (h : 8 ≤ bs.length) : ∃ v, takeImm64 bs = .ok (v, bs.drop 8) := by
  match bs, h with
  | _ :: _ :: _ :: _ :: _ :: _ :: _ :: _ :: _, _ => exact ⟨_, rfl⟩

/-! ## A reader and what follows it

The value that is read never matters: whether the continuation answers depends on the remaining bytes only. -/

section
variable {β : Type} {bs : List Byte} {P : Prop}

theorem succeeds_takeReg_bind {f : Reg × List Byte → Except DecodeError β}
    (hf : ∀ r, Succeeds (f (r, bs.tail)) ↔ P) :
    Succeeds (takeReg bs >>= f) ↔ (1 ≤ bs.length ∧ RegisterByteFits 1 bs) ∧ P := by
  rw [← succeeds_takeReg_iff]
  refine succeeds_bind_iff_and fun ⟨r, t⟩ h => ?_
  rw [rest_of_takeReg h, hf]

theorem succeeds_takeRegs_bind {f : Reg × Reg × List Byte → Except DecodeError β}
    (hf : ∀ r1 r2, Succeeds (f (r1, r2, bs.tail)) ↔ P) :
    Succeeds (takeRegs bs >>= f) ↔ (1 ≤ bs.length ∧ RegisterByteFits 2 bs) ∧ P := by
  rw [← succeeds_takeRegs_iff]
  refine succeeds_bind_iff_and fun ⟨r1, r2, t⟩ h => ?_
  rw [rest_of_takeRegs h, hf]

theorem succeeds_takeImm32_bind {f : Imm32 × List Byte → Except DecodeError β}
    (hf : ∀ v, Succeeds (f (v, bs.drop 4)) ↔ P) :
    Succeeds (takeImm32 bs >>= f) ↔ 4 ≤ bs.length ∧ P := by
  rcases Nat.lt_or_ge bs.length 4 with hlt | hle
  · simp [takeImm32_of_length_lt hlt, succeeds_bind_iff, hlt]
  · obtain ⟨v, hv⟩ := takeImm32_of_le_length hle
    simp [hv, succeeds_bind_iff, hf, hle]

theorem succeeds_takeImm64_bind {f : Imm64 × List Byte → Except DecodeError β}
    (hf : ∀ v, Succeeds (f (v, bs.drop 8)) ↔ P) :
    Succeeds (takeImm64 bs >>= f) ↔ 8 ≤ bs.length ∧ P := by
  rcases Nat.lt_or_ge bs.length 8 with hlt | hle
  · simp [takeImm64_of_length_lt hlt, succeeds_bind_iff, hlt]
  · obtain ⟨v, hv⟩ := takeImm64_of_le_length hle
    simp [hv, succeeds_bind_iff, hf, hle]

end

/-! ## The operands of a row, and the instruction they make -/

theorem succeeds_decodeOperands_iff (row : Row) (bs : List Byte) :
    Succeeds (decodeOperands (rowFormat row) bs) ↔
      formatLength (rowFormat row) ≤ bs.length + 1 ∧ RegisterByteFits (registerByteKind (rowFormat row)) bs := by
  have hdone {ops : Operands} : Succeeds (pure ops) ↔ True := iff_true_intro (succeeds_pure ops)
  cases row <;> simp only [rowFormat, formatLength, registerByteKind]
  case argless => simp [decodeOperands]
  case reg =>
    refine (succeeds_takeReg_bind fun _ => hdone).trans ?_
    grind
  case regImm =>
    refine (succeeds_takeReg_bind fun _ => succeeds_takeImm32_bind fun _ => hdone).trans ?_
    grind
  case regImmOffset =>
    refine (succeeds_takeReg_bind fun _ => succeeds_takeImm32_bind fun _ => succeeds_takeImm32_bind fun _ =>
      hdone).trans ?_
    grind
  case regReg =>
    refine (succeeds_takeRegs_bind fun _ _ => hdone).trans ?_
    grind
  case regRegImm | regRegOffset =>
    refine (succeeds_takeRegs_bind fun _ _ => succeeds_takeImm32_bind fun _ => hdone).trans ?_
    grind
  case offset | imm =>
    refine (succeeds_takeImm32_bind fun _ => hdone).trans ?_
    simp
  case regImm64 =>
    refine (succeeds_takeReg_bind fun _ => succeeds_takeImm64_bind fun _ => hdone).trans ?_
    grind

theorem operandsFormat_of_decodeOperands {f : Format} {bs : List Byte} {ops : Operands}
    (h : decodeOperands f bs = .ok ops) : operandsFormat ops = f := by
  cases f <;> simp [decodeOperands, bind_eq_ok_iff, pure, Except.pure] at h <;> grind [operandsFormat]

theorem exists_rowBuild {row : Row} {ops : Operands} (h : operandsFormat ops = rowFormat row) :
    ∃ i, rowBuild row ops = some i := by
  cases row <;> cases ops <;> cases h <;> exact ⟨_, rfl⟩

theorem succeeds_decode_iff (op : Byte) (rest : List Byte) :
    Succeeds (decode (op :: rest)) ↔
      ∃ row, rowOf op.toNat = some row ∧ Succeeds (decodeOperands (rowFormat row) rest) := by
  unfold decode
  cases hrow : rowOf op.toNat with
  | none => simp [hrow]
  | some row =>
    cases hops : decodeOperands (rowFormat row) rest with
    | error e => simp [hrow, hops]
    | ok ops =>
      obtain ⟨i, hi⟩ := exists_rowBuild (operandsFormat_of_decodeOperands hops)
      simp [hrow, hops, hi]

/-! ## The opcode map by length and kind of register byte (rule R75) -/

/-- The opcode numbers, with the length of their format and the kind of their register byte. -/
def opcodeClasses : List (List Nat × Nat × Nat) :=
  [([0, 120, 150, 151], 1, 0), ([10, 30, 31, 32, 33, 40], 5, 0), ([104, 105, 106, 107, 108, 109], 2, 1),
    ([20, 21, 22, 24], 6, 1),
    ([23, 140, 141, 144, 145, 146, 147, 148, 155, 156, 157, 158, 159, 160, 161], 10, 1),
    ([100, 110, 193, 194, 195, 196, 197, 198, 199, 203, 204, 205, 206, 207, 208, 209, 213, 214, 215, 220, 221,
      222, 223], 2, 2),
    ([50, 51, 52, 53, 54, 55, 56, 60, 61, 62, 63, 170, 171, 172, 173, 174, 175, 190, 191, 192, 200, 201, 202,
      210, 211, 212, 216, 217, 218, 219, 224, 225, 226, 227, 228, 229, 230], 6, 2)]

/-- The length and the kind of register byte of the instructions of a row. -/
def rowClass (row : Row) : Nat × Nat := (formatLength (rowFormat row), registerByteKind (rowFormat row))

theorem rowOf_of_mem_opcodeClasses :
    ∀ c ∈ opcodeClasses, ∀ n ∈ c.1, (rowOf n).map rowClass = some c.2 := by decide

theorem mem_opcodeClasses_of_rowOf {n : Nat} {row : Row} (h : rowOf n = some row) :
    ∃ c ∈ opcodeClasses, n ∈ c.1 := by
  unfold rowOf at h
  split at h
  case h_96 => cases h
  all_goals decide

theorem mem_opcodeClasses_iff (n len kind : Nat) :
    (∃ ops, (ops, len, kind) ∈ opcodeClasses ∧ n ∈ ops) ↔
      ∃ row, rowOf n = some row ∧ rowClass row = (len, kind) := by
  constructor
  · rintro ⟨ops, hc, hn⟩
    simpa using rowOf_of_mem_opcodeClasses _ hc n hn
  · rintro ⟨row, hrow, hclass⟩
    obtain ⟨⟨ops, lk⟩, hc, hn⟩ := mem_opcodeClasses_of_rowOf hrow
    have hlk : (rowOf n).map rowClass = some lk := rowOf_of_mem_opcodeClasses _ hc n hn
    obtain rfl : (len, kind) = lk := by simpa [hrow, hclass] using hlk
    exact ⟨ops, hc, hn⟩

theorem succeeds_decode_iff_mem_opcodeClasses (op : Byte) (rest : List Byte) :
    Succeeds (decode (op :: rest)) ↔
      ∃ ops len kind, (ops, len, kind) ∈ opcodeClasses ∧ op.toNat ∈ ops ∧ len ≤ rest.length + 1 ∧
        RegisterByteFits kind rest := by
  simp only [succeeds_decode_iff, succeeds_decodeOperands_iff]
  constructor
  · rintro ⟨row, hrow, hlen, hfits⟩
    obtain ⟨ops, hc, hn⟩ := (mem_opcodeClasses_iff op.toNat _ _).mpr ⟨row, hrow, rfl⟩
    exact ⟨ops, _, _, hc, hn, hlen, hfits⟩
  · rintro ⟨ops, len, kind, hc, hn, hlen, hfits⟩
    obtain ⟨row, hrow, ⟨⟩⟩ := (mem_opcodeClasses_iff op.toNat len kind).mp ⟨ops, hc, hn⟩
    exact ⟨row, hrow, hlen, hfits⟩

/-- Settles O4: the decoder answers exactly when the opcode has a row, and the fields of the row's format ask for its length
and for a register byte in range, nothing else. -/
theorem invalidExactlyWhen : Obligations.InvalidExactlyWhen := by
  intro op rest
  rw [exists_error_iff]
  exact not_congr (succeeds_decode_iff_mem_opcodeClasses op rest)

end Sys2Proof.Encoding
end

section
/-! PROOFS. Bit counts (48_bit_manipulation.md): what an instruction that writes one register leaves and reads back, and the
count of trailing zeros as the greatest power of two that divides the value (rules R253, R254). -/

namespace Sys2Proof.Machine

/-! ## An instruction that writes one register -/

theorem xlen_eq (s : State) : s.xlen = 32 ∨ s.xlen = 64 := by
  unfold State.xlen
  cases s.params.mode <;> simp [Mode.width]

theorem keepsRest_writeReg (f : Format) (s : State) (dest : Reg) (v : BitVec s.xlen) :
    KeepsRest s ((s.setReg dest v).advance f) dest (formatLength f) where
  regs _ hr := by simp [RegFile.get_set_other _ _ hr]
  mem _ := by simp
  pc := by simp
  status := by simp
  params := by simp
  hostAnswers := by simp
  freeCount := by simp

theorem uval_writeReg_self (f : Format) (s : State) (dest : Reg) (v : BitVec s.xlen) :
    ((s.setReg dest v).advance f).uval dest = v.toNat :=
  congrArg BitVec.toNat (reg_setReg_self s dest v)

theorem low_toNat (s : State) (W : Nat) (r : Reg) : (s.low W r).toNat = s.lowU W r :=
  BitVec.toNat_setWidth W (s.reg r)

/-- A bit count of at most 64 is written as it is: it fits in a register of either mode (rule R250). -/
theorem countBits_next {W : Nat} {f : BitVec W → Nat} {s : State} {r : Reg} (hle : f (s.low W r) ≤ 64) :
    ∃ t, countBits W f r s = .next t ∧ KeepsRest s t r 2 ∧ t.uval r = f (s.low W r) := by
  refine ⟨_, rfl, keepsRest_writeReg .reg s r _, ?_⟩
  rw [uval_writeReg_self, BitVec.toNat_ofNat]
  apply Nat.mod_eq_of_lt
  rcases xlen_eq s with h | h <;> rw [h] <;> omega

/-! ## The count of trailing zeros -/

theorem trailingZerosAbove_le {W : Nat} (a : BitVec W) (k : Nat) : trailingZerosAbove a k ≤ k := by
  induction k with
  | zero => rfl
  | succ k ih =>
    rw [trailingZerosAbove]
    split <;> omega

/-- A count among the top `k` bits reaches `j` exactly when the lowest `j` of these bits are zero. -/
theorem le_trailingZerosAbove_iff {W : Nat} (a : BitVec W) {j k : Nat} (hjk : j ≤ k) (hk : k ≤ W) :
    j ≤ trailingZerosAbove a k ↔ ∀ i < j, a.getLsbD (W - k + i) = false := by
  induction k generalizing j with
  | zero =>
    obtain rfl : j = 0 := by omega
    simp
  | succ k ih =>
    rcases j with _ | j
    · simp
    have hshift (i : Nat) : W - (k + 1) + (i + 1) = W - k + i := by omega
    rw [trailingZerosAbove, Nat.forall_lt_succ_left]
    cases a.getLsbD (W - (k + 1)) with
    | true => simp
    | false => simp [hshift, ih (Nat.le_of_succ_le_succ hjk) (Nat.le_of_succ_le hk)]

theorem two_pow_dvd_iff_testBit (n j : Nat) : 2 ^ j ∣ n ↔ ∀ i < j, n.testBit i = false := by
  rw [Nat.dvd_iff_mod_eq_zero]
  constructor
  · intro hmod i hi
    simpa [hmod, hi] using (Nat.testBit_mod_two_pow n j i).symm
  · intro hbits
    apply Nat.zero_of_testBit_eq_false
    intro i
    by_cases hi : i < j <;> simp [hi, hbits]

theorem ctz_le {W : Nat} (a : BitVec W) : ctz a ≤ W :=
  trailingZerosAbove_le a W

theorem two_pow_dvd_iff_le_ctz {W : Nat} (a : BitVec W) {j : Nat} (hj : j ≤ W) : 2 ^ j ∣ a.toNat ↔ j ≤ ctz a := by
  rw [two_pow_dvd_iff_testBit, ctz, le_trailingZerosAbove_iff a hj le_rfl]
  simp [BitVec.getLsbD]

theorem ctz_of_toNat_eq_zero {W : Nat} {a : BitVec W} (h : a.toNat = 0) : ctz a = W :=
  (ctz_le a).antisymm ((two_pow_dvd_iff_le_ctz a le_rfl).mp (h ▸ dvd_zero _))

theorem ctz_lt_of_toNat_ne_zero {W : Nat} {a : BitVec W} (h : a.toNat ≠ 0) : ctz a < W := by
  have hndvd : ¬ 2 ^ W ∣ a.toNat := Nat.not_dvd_of_pos_of_lt (Nat.pos_of_ne_zero h) a.isLt
  rwa [two_pow_dvd_iff_le_ctz a le_rfl, not_le] at hndvd

theorem two_pow_ctz_dvd {W : Nat} (a : BitVec W) : 2 ^ ctz a ∣ a.toNat :=
  (two_pow_dvd_iff_le_ctz a (ctz_le a)).mpr le_rfl

theorem not_two_pow_succ_ctz_dvd {W : Nat} {a : BitVec W} (h : a.toNat ≠ 0) : ¬ 2 ^ (ctz a + 1) ∣ a.toNat := by
  rw [two_pow_dvd_iff_le_ctz a (ctz_lt_of_toNat_ne_zero h)]
  exact Nat.not_succ_le_self _

/-- What both widths write (rules R253, R254). -/
theorem countBits_ctz_next {W : Nat} (hW : W ≤ 64) (s : State) (reg : Reg) :
    ∃ t, countBits W ctz reg s = .next t ∧ KeepsRest s t reg 2 ∧ (s.lowU W reg = 0 → t.uval reg = W) ∧
      (s.lowU W reg ≠ 0 → 2 ^ t.uval reg ∣ s.lowU W reg ∧ ¬ 2 ^ (t.uval reg + 1) ∣ s.lowU W reg) := by
  obtain ⟨t, hnext, hkeeps, hval⟩ := countBits_next (r := reg) ((ctz_le (s.low W reg)).trans hW)
  refine ⟨t, hnext, hkeeps, ?_⟩
  rw [hval, ← low_toNat]
  exact ⟨ctz_of_toNat_eq_zero, fun h => ⟨two_pow_ctz_dvd _, not_two_pow_succ_ctz_dvd h⟩⟩

/-! ## The two instructions -/

theorem exec_countTrailingZeroBits32 (reg : Reg) (s : State) :
    exec (.countTrailingZeroBits32 reg) s = countBits 32 ctz reg s := rfl

theorem exec_countTrailingZeroBits64 (reg : Reg) (s : State) :
    exec (.countTrailingZeroBits64 reg) s = in64 s (countBits 64 ctz reg s) := rfl

/-- Settles O54: `ctz` is at least `j` exactly when `2 ^ j` divides the value, so it is the greatest such exponent; the 64-bit
form is checked for its mode first. -/
theorem trailingZeroCounts : Obligations.TrailingZeroCounts := by
  rintro s reg W i opcode (⟨rfl, rfl, rfl⟩ | ⟨rfl, rfl, rfl⟩)
  · refine ⟨rfl, by simp, fun _ => ?_⟩
    rw [exec_countTrailingZeroBits32]
    exact countBits_ctz_next (by decide) s reg
  · refine ⟨rfl, fun _ hmode => ?_, fun hmode => ?_⟩ <;> rw [exec_countTrailingZeroBits64]
    · exact in64_x32 hmode _
    · rw [in64_x64 (hmode rfl)]
      exact countBits_ctz_next le_rfl s reg

end Sys2Proof.Machine
end

section
/-! PROOFS. The hints and the register move (49_special.md rules R261, R264, R265): the byte of two registers as a number,
no instruction start at the end of the code or beyond it, and the three instructions. -/

namespace Sys2Proof.Encoding

theorem regNum_lt (r : Reg) : regNum r < 13 := by
  cases r <;> decide

theorem append_nibbles_eq_ofNat {lo : Nat} (hi : Nat) (hlo : lo < 16) :
    BitVec.ofNat 4 hi ++ BitVec.ofNat 4 lo = BitVec.ofNat 8 (lo + 16 * hi) := by
  apply BitVec.eq_of_toNat_eq
  have hnibble : (BitVec.ofNat 4 lo).toNat < 2 ^ 4 := BitVec.isLt _
  rw [BitVec.toNat_append, ← Nat.shiftLeft_add_eq_or_of_lt hnibble, Nat.shiftLeft_eq]
  simp only [BitVec.toNat_ofNat]
  omega

/-- The register byte as the number of the second register followed by that of the first (rule R64). -/
theorem rb2_eq_ofNat (r1 r2 : Reg) : rb2 r1 r2 = BitVec.ofNat 8 (regNum r1 + 16 * regNum r2) :=
  append_nibbles_eq_ofNat (regNum r2) ((regNum_lt r1).trans (by decide))

end Sys2Proof.Encoding

namespace Sys2Proof.Machine

/-! ## The end of the code -/

/-- The walk finds starts within the bytes it is given only. -/
theorem startFrom_of_length_le {bs : List Byte} {t : Nat} (c : Codec) (o skip : Nat) (h : bs.length ≤ t) :
    startFrom c bs o skip t = false := by
  induction bs generalizing o skip t with
  | nil => rfl
  | cons b bs ih =>
    cases t with
    | zero => exact absurd h (Nat.not_succ_le_zero bs.length)
    | succ t =>
      have hrest : bs.length ≤ t := Nat.le_of_succ_le_succ h
      cases skip with
      | succ skip => exact ih (o + 1) skip hrest
      | zero =>
        rw [startFrom]
        split
        · exact ih _ _ hrest
        · rfl
        · rfl

theorem isStart_of_length_le {p : Params} {t : Nat} (h : p.code.length ≤ t) : isStart p t = false :=
  startFrom_of_length_le p.codec 0 0 h

theorem fetch_of_not_isStart {s : State} (h : isStart s.params s.pc = false) : fetch s = .error .invalidTarget := by
  simp [fetch, h]

theorem step_of_fetch_error {s : State} {r : TrapReason} (hrun : s.status = .running) (h : fetch s = .error r) :
    step s = .next (s.trap r) := by
  simp only [step, hrun, h]
  rfl

/-- At the end of the code and beyond it a step traps (rule R102, D23). -/
theorem step_of_length_le_pc {s : State} (hrun : s.status = .running) (h : s.params.code.length ≤ s.pc) :
    step s = .next (s.trap .invalidTarget) :=
  step_of_fetch_error hrun (fetch_of_not_isStart (isStart_of_length_le h))

/-! ## The three instructions -/

theorem exec_unlikely (s : State) : exec .unlikely s = .next (s.advance .argless) := rfl

theorem exec_fallthrough (s : State) : exec .fallthrough s = .next (s.advance .argless) := rfl

theorem exec_moveReg (dest src : Reg) (s : State) :
    exec (.moveReg dest src) s = .next ((s.setReg dest (s.reg src)).advance .regReg) := rfl

/-- Settles O26: each hint is an advance by its format's length; what it moves on to keeps the status and the code, so the
step after it traps by `step_of_length_le_pc` when `pc` is the end of the code. -/
theorem hintsDoNothing : Obligations.HintsDoNothing := by
  refine ⟨rfl, rfl, ?_⟩
  rintro s t rfl
  refine ⟨exec_unlikely s, exec_fallthrough s, fun hrun hend => ?_⟩
  exact step_of_length_le_pc hrun hend.ge

/-- Settles O56: `move_reg` is the shared write of one register, with all of the source as the value. -/
theorem moveRegister : Obligations.MoveRegister := by
  intro s dest src
  have hencode : encode (.moveReg dest src) = [0x64, rb2 dest src] := rfl
  refine ⟨by rw [hencode, Encoding.rb2_eq_ofNat], _, exec_moveReg dest src s, ?_, ?_⟩
  · exact keepsRest_writeReg .regReg s dest (s.reg src)
  · exact uval_writeReg_self .regReg s dest (s.reg src)

end Sys2Proof.Machine
end

section
/-! PROOFS. Trapped machines (60_exceptions.md rule R304): what a step answers from `Trapped(r)`. -/

namespace Sys2Proof.Machine

/-- The branch of `step` for a trapped machine: the answer is a fault that names the trap, whatever the rest of the state. -/
theorem step_of_trapped {s : State} {r : TrapReason} (h : s.status = .trapped r) : step s = .fault (.trapped r) := by
  simp only [step, h]

/-- Settles O9: a step from a trapped machine answers a fault, and a fault is no next state. -/
theorem trappedMachineIsFinal : Obligations.TrappedMachineIsFinal := by
  intro s t r htrapped hnext
  have hfault : step s = .fault (.trapped r) := step_of_trapped htrapped
  cases hfault.symm.trans hnext

end Sys2Proof.Machine
end

section
/-! PROOFS. The reference codec as a round trip (30_encoding.md rules R63 to R65, R75, R77): the bytes each reader of an
operand field takes, and with them that `decode` answers an instruction exactly on the bytes that begin with its encoding. -/

namespace Sys2Proof.Encoding

/-! ## One operand field -/

theorem regOfNum_eq_some_iff (n : Nat) (r : Reg) : regOfNum n = some r ↔ n = regNum r := by
  constructor
  · intro h
    have hlt : n < 13 := (regOfNum_isSome_iff n).mp (h ▸ rfl)
    interval_cases n <;> cases h <;> rfl
  · rintro rfl
    cases r <;> rfl

theorem regField_eq_ok_iff (v : BitVec 4) (r : Reg) : regField v = .ok r ↔ v.toNat = regNum r := by
  rw [← regOfNum_eq_some_iff, regField]
  cases regOfNum v.toNat <;> simp

theorem rb1_eq_iff (b : Byte) (r : Reg) :
    b = rb1 r ↔ b.extractLsb' 4 4 = 0 ∧ (b.extractLsb' 0 4).toNat = regNum r := by
  have hr := regNum_lt r
  rw [highNibble_eq_zero_iff, lowNibble_toNat, ← BitVec.toNat_inj, rb1, BitVec.toNat_ofNat]
  omega

theorem rb2_eq_iff (b : Byte) (r1 r2 : Reg) :
    b = rb2 r1 r2 ↔ (b.extractLsb' 0 4).toNat = regNum r1 ∧ (b.extractLsb' 4 4).toNat = regNum r2 := by
  have hb := b.isLt
  have h1 := regNum_lt r1
  have h2 := regNum_lt r2
  rw [highNibble_toNat, lowNibble_toNat, rb2_eq_ofNat, ← BitVec.toNat_inj, BitVec.toNat_ofNat]
  omega

theorem takeReg_eq_ok_iff (bs t : List Byte) (r : Reg) : takeReg bs = .ok (r, t) ↔ bs = rb1 r :: t := by
  rcases bs with _ | ⟨b, rest⟩
  · simp [takeReg]
  rw [List.cons.injEq, rb1_eq_iff, takeReg, ← regField_eq_ok_iff]
  split
  case isTrue hhigh => cases regField (b.extractLsb' 0 4) <;> simp [Except.map, hhigh]
  case isFalse hhigh => simp [show ¬ b.extractLsb' 4 4 = 0#4 from hhigh]

theorem takeRegs_eq_ok_iff (bs t : List Byte) (r1 r2 : Reg) :
    takeRegs bs = .ok (r1, r2, t) ↔ bs = rb2 r1 r2 :: t := by
  rcases bs with _ | ⟨b, rest⟩
  · simp [takeRegs]
  rw [List.cons.injEq, rb2_eq_iff, takeRegs, ← regField_eq_ok_iff, ← regField_eq_ok_iff]
  simp only [bind_eq_ok_iff, pure, Except.pure]
  grind

theorem append_bytes32 (v : Imm32) :
    v.extractLsb' 24 8 ++ v.extractLsb' 16 8 ++ v.extractLsb' 8 8 ++ v.extractLsb' 0 8 = v := by
  ext i hi
  simp
  grind

/-- The lowest byte of a field. -/
theorem extractByte_append_zero {w : Nat} (x : BitVec w) (b : Byte) : (x ++ b).extractLsb' 0 8 = b := by
  ext i hi
  simp [BitVec.getLsbD_append, hi]

/-- The bytes above the lowest one. -/
theorem extractByte_append_add {w : Nat} (x : BitVec w) (b : Byte) (k : Nat) :
    (x ++ b).extractLsb' (k + 8) 8 = x.extractLsb' k 8 := by
  ext i hi
  simp [BitVec.getLsbD_append, show ¬ k + 8 + i < 8 by omega, show k + 8 + i - 8 = k + i by omega]

theorem bytes32_append (b0 b1 b2 b3 : Byte) : bytes32 (b3 ++ b2 ++ b1 ++ b0) = [b0, b1, b2, b3] := by
  simp [bytes32, extractByte_append_zero, extractByte_append_add]

theorem append_bytes64 (v : Imm64) :
    v.extractLsb' 56 8 ++ v.extractLsb' 48 8 ++ v.extractLsb' 40 8 ++ v.extractLsb' 32 8 ++ v.extractLsb' 24 8 ++
      v.extractLsb' 16 8 ++ v.extractLsb' 8 8 ++ v.extractLsb' 0 8 = v := by
  ext i hi
  simp
  grind

theorem bytes64_append (b0 b1 b2 b3 b4 b5 b6 b7 : Byte) :
    bytes64 (b7 ++ b6 ++ b5 ++ b4 ++ b3 ++ b2 ++ b1 ++ b0) = [b0, b1, b2, b3, b4, b5, b6, b7] := by
  simp [bytes64, extractByte_append_zero, extractByte_append_add]

theorem takeImm32_eq_ok_iff (bs t : List Byte) (v : Imm32) : takeImm32 bs = .ok (v, t) ↔ bs = bytes32 v ++ t := by
  constructor
  · intro h
    unfold takeImm32 at h
    split at h <;> cases h
    rw [bytes32_append]
    rfl
  · rintro rfl
    simp only [bytes32, List.cons_append, List.nil_append, takeImm32, append_bytes32]

theorem takeImm64_eq_ok_iff (bs t : List Byte) (v : Imm64) : takeImm64 bs = .ok (v, t) ↔ bs = bytes64 v ++ t := by
  constructor
  · intro h
    unfold takeImm64 at h
    split at h <;> cases h
    rw [bytes64_append]
    rfl
  · rintro rfl
    simp only [bytes64, List.cons_append, List.nil_append, takeImm64, append_bytes64]

/-! ## The operands of a format -/

/-- The operands of a format are read exactly from the bytes that begin with their encoding. -/
theorem decodeOperands_eq_ok_iff (f : Format) (bs : List Byte) (ops : Operands) :
    decodeOperands f bs = .ok ops ↔ operandsFormat ops = f ∧ encodeOperands ops <+: bs := by
  constructor
  · intro h
    refine ⟨operandsFormat_of_decodeOperands h, ?_⟩
    cases f <;>
      simp only [decodeOperands, bind_eq_ok_iff, Prod.exists, takeReg_eq_ok_iff, takeRegs_eq_ok_iff,
        takeImm32_eq_ok_iff, takeImm64_eq_ok_iff, pure, Except.pure, Except.ok.injEq] at h
    case argless =>
      obtain rfl := h
      exact List.nil_prefix
    case reg =>
      obtain ⟨r, t, rfl, rfl⟩ := h
      exact ⟨t, rfl⟩
    case regReg =>
      obtain ⟨r1, r2, t, rfl, rfl⟩ := h
      exact ⟨t, rfl⟩
    case offset | imm =>
      obtain ⟨v, t, rfl, rfl⟩ := h
      exact ⟨t, rfl⟩
    case immImm =>
      obtain ⟨v, _, rfl, w, t, rfl, rfl⟩ := h
      exact ⟨t, rfl⟩
    case regImm | regImm64 =>
      obtain ⟨r, _, rfl, v, t, rfl, rfl⟩ := h
      exact ⟨t, rfl⟩
    case regImmOffset | regImmImm =>
      obtain ⟨r, _, rfl, v, _, rfl, w, t, rfl, rfl⟩ := h
      exact ⟨t, rfl⟩
    case regRegImm | regRegOffset | regRegReg =>
      obtain ⟨r1, r2, _, rfl, v, t, rfl, rfl⟩ := h
      exact ⟨t, rfl⟩
    case regRegImmImm =>
      obtain ⟨r1, r2, _, rfl, v, _, rfl, w, t, rfl, rfl⟩ := h
      exact ⟨t, rfl⟩
  · rintro ⟨rfl, t, rfl⟩
    cases ops <;>
      simp [decodeOperands, operandsFormat, encodeOperands, bind_eq_ok_iff, takeReg_eq_ok_iff, takeRegs_eq_ok_iff,
        takeImm32_eq_ok_iff, takeImm64_eq_ok_iff, pure, Except.pure]

theorem encodeOperands_length (ops : Operands) :
    (encodeOperands ops).length + 1 = formatLength (operandsFormat ops) := by
  cases ops <;> rfl

theorem encode_length (i : Instr) : (encode i).length = lengthOf i :=
  encodeOperands_length (operandsOf i)

/-! ## The opcode map -/

/-- The opcode map and the encoder agree on all 95 instructions (rule R75). -/
theorem opcodeRow (i : Instr) : Laws.OpcodeRow.Statement i := by
  cases i <;> exact ⟨_, rfl, rfl, rfl, Nat.le_of_ble_eq_true rfl⟩

/-- What a row makes of operands has the row's number and these operands: the map has no instruction twice. -/
theorem opcodeOf_operandsOf_of_rowBuild {n : Nat} {row : Row} {ops : Operands} {i : Instr} (hrow : rowOf n = some row)
    (hbuild : rowBuild row ops = some i) : opcodeOf i = n ∧ operandsOf i = ops := by
  unfold rowOf at hrow
  split at hrow
  case h_96 => cases hrow
  all_goals
    cases hrow
    cases ops <;> cases hbuild
    exact ⟨rfl, rfl⟩

theorem decode_cons_eq_ok_iff (op : Byte) (rest : List Byte) (i : Instr) :
    decode (op :: rest) = .ok i ↔
      ∃ row ops, rowOf op.toNat = some row ∧ decodeOperands (rowFormat row) rest = .ok ops ∧
        rowBuild row ops = some i := by
  unfold decode
  cases hrow : rowOf op.toNat with
  | none => simp [hrow]
  | some row =>
    cases hops : decodeOperands (rowFormat row) rest with
    | error e => simp [hrow, hops]
    | ok ops => cases hbuild : rowBuild row ops <;> simp [hrow, hops, hbuild]

/-- The decoder answers an instruction exactly on the bytes that begin with its encoding (rules R63 to R65). -/
theorem decode_eq_ok_iff (bs : List Byte) (i : Instr) : decode bs = .ok i ↔ encode i <+: bs := by
  rcases bs with _ | ⟨op, rest⟩
  · simp [decode, encode]
  rw [decode_cons_eq_ok_iff, encode, List.cons_prefix_cons]
  constructor
  · rintro ⟨row, ops, hrow, hops, hbuild⟩
    obtain ⟨hop, rfl⟩ := opcodeOf_operandsOf_of_rowBuild hrow hbuild
    exact ⟨by rw [hop, BitVec.ofNat_toNat, BitVec.setWidth_eq], ((decodeOperands_eq_ok_iff _ _ _).mp hops).2⟩
  · rintro ⟨rfl, hprefix⟩
    obtain ⟨row, hrow, hformat, hbuild, hlt⟩ := opcodeRow i
    refine ⟨row, operandsOf i, ?_, (decodeOperands_eq_ok_iff _ _ _).mpr ⟨hformat.symm, hprefix⟩, hbuild⟩
    rwa [BitVec.toNat_ofNat, Nat.mod_eq_of_lt hlt]

/-! ## The statements -/

/-- Settles O1: any bytes that begin with the encoding of an instruction decode to it. -/
theorem decodeOfEncode : Obligations.DecodeOfEncode := by
  intro i rest
  exact ⟨(decode_eq_ok_iff _ i).mpr (List.prefix_append (encode i) rest), encode_length i⟩

/-- Settles O2: the same equivalence read the other way. -/
theorem encodeOfDecode : Obligations.EncodeOfDecode := by
  intro bs i h
  have hprefix : encode i <+: bs := (decode_eq_ok_iff bs i).mp h
  rw [← encode_length]
  exact ⟨hprefix.length_le, (List.prefix_iff_eq_take.mp hprefix).symm⟩

/-- Settles O5: each of the eight byte lists is the encoding of its instruction. -/
theorem writtenBytesDecode : Obligations.WrittenBytesDecode := by
  refine ⟨?_, ?_, ?_, ?_, ?_, ?_, ?_, ?_⟩ <;> exact (decode_eq_ok_iff _ _).mpr ⟨[], rfl⟩

end Sys2Proof.Encoding
end

section
/-! PROOFS. Fetch and instruction starts (30_encoding.md rule R66, 40_control_flow_and_branch.md rule R102): what the fetch
answers at a start, and the walk over the code as the linear decoding. -/

namespace Sys2Proof.Machine

/-! ## What stands at an offset -/

theorem progAt_reference {p : Params} (hc : p.codec = .reference) {o : Nat} {i : Instr}
    (h : decode (p.code.drop o) = .ok i) : progAt p o = some (i, lengthOf i) := by
  simp only [progAt, hc, codecAt, h]

theorem progAt_reference_error {p : Params} (hc : p.codec = .reference) {o : Nat} {e : DecodeError}
    (h : decode (p.code.drop o) = .error e) : progAt p o = none := by
  simp only [progAt, hc, codecAt, h]

/-- An instruction that `Codec` reports lies inside the code, and its length is the one by which `pc` moves on. -/
theorem len_of_progAt {s : State} {i : Instr} {l : Nat} (h : progAt s.params s.pc = some (i, l)) :
    s.len (lengthOf i) = l ∧ l ≤ (s.params.code.drop s.pc).length := by
  cases hc : s.params.codec with
  | reference =>
    cases hd : decode (s.params.code.drop s.pc) with
    | error e => simp [progAt_reference_error hc hd] at h
    | ok j =>
      rw [progAt_reference hc hd] at h
      cases h
      exact ⟨len_reference hc _, (Encoding.encodeOfDecode _ _ hd).1⟩
  | table entries =>
    simp only [progAt, codecAt, hc] at h
    split at h
    · rename_i e he
      split at h
      · cases h
        exact ⟨len_table hc he _, ‹_›⟩
      · cases h
    · cases h

/-! ## The fetch and the step -/

theorem fetch_of_progAt {s : State} {i : Instr} {l : Nat} (hstart : isStart s.params s.pc = true)
    (h : progAt s.params s.pc = some (i, l)) : fetch s = .ok i := by
  simp [fetch, hstart, h]

theorem fetch_of_progAt_none {s : State} (hstart : isStart s.params s.pc = true)
    (h : progAt s.params s.pc = none) : fetch s = .error .invalidInstruction := by
  simp [fetch, hstart, h]

theorem step_of_fetch_ok {s : State} {i : Instr} (hrun : s.status = .running) (h : fetch s = .ok i) :
    step s = exec i s := by
  simp only [step, hrun, h]

/-- Settles O7: the fetch answers the instruction that stands at the start, and `len` is the length reported with it. -/
theorem stepRunsDecodedInstruction : Obligations.StepRunsDecodedInstruction := by
  intro s i hrun hstart
  have hstep {l : Nat} (h : progAt s.params s.pc = some (i, l)) : step s = exec i s ∧ s.len (lengthOf i) = l :=
    ⟨step_of_fetch_ok hrun (fetch_of_progAt hstart h), (len_of_progAt h).1⟩
  exact ⟨fun l => hstep, fun hc hd => hstep (progAt_reference hc hd)⟩

/-- Settles O8: each premise makes the fetch answer one of its two traps. -/
theorem fetchTraps : Obligations.FetchTraps := by
  refine fun s hrun => ⟨?_, fun hstart hinvalid => ?_⟩
  · rintro (hend | hnot)
    · exact step_of_length_le_pc hrun hend
    · exact step_of_fetch_error hrun (fetch_of_not_isStart hnot)
  · have hnone : progAt s.params s.pc = none := by
      rcases hinvalid with hnone | ⟨hc, e, he⟩
      · exact hnone
      · exact progAt_reference_error hc he
    exact step_of_fetch_error hrun (fetch_of_progAt_none hstart hnone)

/-! ## Unassigned opcodes (rule R77) -/

theorem decode_of_rowOf_none {op : Byte} (h : rowOf op.toNat = none) (rest : List Byte) :
    decode (op :: rest) = .error (.unassignedOpcode op.toNat) := by
  simp [decode, h]

/-- Settles O3: no opcode class holds such a number, so the map has no row for it; a step there is a fetch trap (O8). -/
theorem unassignedOpcodesAreInvalid : Obligations.UnassignedOpcodesAreInvalid := by
  rintro op rest n rfl hranges
  have hrow : rowOf op.toNat = none := by
    by_contra hsome
    obtain ⟨row, hrow⟩ := Option.ne_none_iff_exists'.mp hsome
    have hmem := Encoding.mem_opcodeClasses_of_rowOf hrow
    simp [Encoding.opcodeClasses] at hmem
    omega
  have herror := decode_of_rowOf_none hrow rest
  refine ⟨⟨_, herror⟩, fun s hrun hc hstart hcode => ?_⟩
  exact (fetchTraps s hrun).2 hstart (.inr ⟨hc, _, hcode ▸ herror⟩)

/-! ## The walk over the code -/

/-- The bytes that still belong to the instruction before are passed over. -/
theorem startFrom_skip (c : Codec) (bs : List Byte) (o k t : Nat) :
    startFrom c bs o k (k + t) = startFrom c (bs.drop k) (o + k) 0 t := by
  induction k generalizing bs o with
  | zero => simp
  | succ k ih =>
    rcases bs with _ | ⟨b, bs⟩
    · simp [startFrom]
    · rw [Nat.succ_add, startFrom, ih, List.drop_succ_cons, Nat.add_right_comm]
      rfl

/-- None of them is a start. -/
theorem startFrom_of_lt (c : Codec) (bs : List Byte) (o : Nat) {k t : Nat} (h : t < k) :
    startFrom c bs o k t = false := by
  induction k generalizing bs o t with
  | zero => cases h
  | succ k ih =>
    rcases bs with _ | ⟨b, bs⟩
    · rfl
    cases t with
    | zero => rfl
    | succ t => exact ih bs (o + 1) (Nat.lt_of_succ_lt_succ h)

/-- Whether the walk that begins at the offset `o` finds a start `t` bytes further on. -/
def reaches (p : Params) (o t : Nat) : Bool :=
  startFrom p.codec (p.code.drop o) o 0 t

theorem isStart_eq_reaches (p : Params) (t : Nat) : isStart p t = reaches p 0 t := rfl

theorem lt_length_of_reaches {p : Params} {o t : Nat} (h : reaches p o t = true) : o + t < p.code.length := by
  by_contra hge
  have : (p.code.drop o).length ≤ t := by rw [List.length_drop]; omega
  simp [reaches, startFrom_of_length_le p.codec o 0 this] at h

theorem lt_length_of_isStart {p : Params} {t : Nat} (h : isStart p t = true) : t < p.code.length := by
  rw [isStart_eq_reaches] at h
  simpa using lt_length_of_reaches h

theorem reaches_zero {p : Params} {o : Nat} (h : o < p.code.length) : reaches p o 0 = true := by
  rw [reaches, List.drop_eq_getElem_cons h]
  rfl

/-- Behind an instruction of `l + 1` bytes the walk goes on after these bytes. -/
theorem startFrom_drop_succ (p : Params) (o l t : Nat) :
    startFrom p.codec (p.code.drop (o + 1)) (o + 1) l t = true ↔ l ≤ t ∧ reaches p (o + (l + 1)) (t - l) = true := by
  rcases Nat.lt_or_ge t l with hlt | hge
  · simp [startFrom_of_lt p.codec _ (o + 1) hlt, hlt]
  · obtain ⟨k, rfl⟩ := Nat.exists_eq_add_of_le hge
    rw [startFrom_skip, List.drop_drop, reaches, Nat.add_sub_cancel_left, Nat.add_assoc, Nat.add_comm 1 l]
    simp

/-- The walk goes on behind the instruction that `Codec` reports, and only there. -/
theorem reaches_succ_iff (p : Params) (o t : Nat) :
    reaches p o (t + 1) = true ↔
      ∃ i l, progAt p o = some (i, l + 1) ∧ l ≤ t ∧ reaches p (o + (l + 1)) (t - l) = true := by
  rcases Nat.lt_or_ge o p.code.length with hlt | hge
  case inr =>
    have houtside {o' t' : Nat} (ho : o ≤ o') : reaches p o' t' ≠ true := fun h => by
      have := lt_length_of_reaches h
      omega
    simp [houtside (Nat.le_refl o), houtside (Nat.le_add_right o _)]
  have hdrop := List.drop_eq_getElem_cons hlt
  have hprog : progAt p o = codecAt p.codec o (p.code[o] :: p.code.drop (o + 1)) := by rw [progAt, hdrop]
  rw [reaches, hdrop, startFrom, ← hprog]
  split
  case h_1 i l heq => simp [heq, startFrom_drop_succ]
  case h_2 heq | h_3 heq => simp [heq]

/-- A walk that stands at a start goes on from there as the walk that begins there. -/
theorem reaches_add {p : Params} {o b : Nat} (h : reaches p o b = true) (t : Nat) :
    reaches p o (b + t) = reaches p (o + b) t := by
  induction b using Nat.strongRecOn generalizing o with
  | ind b ih =>
    rcases b with _ | b
    · simp
    obtain ⟨i, l, hprog, hle, hrest⟩ := (reaches_succ_iff p o b).mp h
    have hnext : reaches p (o + (l + 1)) (b - l + t) = reaches p (o + (b + 1)) t := by
      rw [ih (b - l) (by omega) hrest, show o + (l + 1) + (b - l) = o + (b + 1) by omega]
    rw [← hnext, Bool.eq_iff_iff, Nat.add_right_comm, reaches_succ_iff]
    constructor
    · rintro ⟨i', l', hprog', -, hrest'⟩
      cases hprog.symm.trans hprog'
      rwa [← Nat.sub_add_comm hle]
    · intro hrest'
      exact ⟨i, l, hprog, by omega, by rwa [Nat.sub_add_comm hle]⟩

/-! ## The walk finds what the linear decoding builds -/

theorem starts_add_of_reaches {p : Params} {o t : Nat} (ho : Starts p o) (h : reaches p o t = true) :
    Starts p (o + t) := by
  induction t using Nat.strongRecOn generalizing o with
  | ind t ih =>
    rcases t with _ | t
    · exact ho
    obtain ⟨i, l, hprog, hle, hrest⟩ := (reaches_succ_iff p o t).mp h
    have hlt := lt_length_of_reaches hrest
    have hnext : Starts p (o + (l + 1)) := .next o i (l + 1) ho hprog (by omega)
    have := ih (t - l) (by omega) hnext hrest
    rwa [show o + (l + 1) + (t - l) = o + (t + 1) by omega] at this

theorem reaches_of_progAt {p : Params} {o l : Nat} {i : Instr} (hprog : progAt p o = some (i, l))
    (hlt : o + l < p.code.length) : reaches p o l = true := by
  rcases l with _ | l
  · exact reaches_zero hlt
  · exact (reaches_succ_iff p o l).mpr ⟨i, l, hprog, Nat.le_refl l, by rw [Nat.sub_self]; exact reaches_zero hlt⟩

/-- Settles O6: the walk reaches what it builds step by step (`starts_add_of_reaches`); and each step of the linear decoding
is one of the walk, which goes on from any start it has found (`reaches_add`). -/
theorem startsAreTheLinearSweep : Obligations.StartsAreTheLinearSweep := by
  intro p t
  rw [isStart_eq_reaches]
  constructor
  · intro h
    have hlt := lt_length_of_reaches h
    simpa using starts_add_of_reaches (.first (by omega)) h
  · intro h
    induction h with
    | first h0 => exact reaches_zero h0
    | next o i l _ hprog hlt ih =>
      rw [reaches_add ih, Nat.zero_add]
      exact reaches_of_progAt hprog hlt

end Sys2Proof.Machine
end

section
/-! PROOFS. What every step does (40_control_flow_and_branch.md rule R102, 60_exceptions.md rules R303, R311): one inversion
lemma for `step`, and from it the invariants of a run. -/

namespace Sys2Proof.Machine

/-! ## Everything a step can do -/

/-- The machine after host call `k`, to which the host has answered with registers and bytes (rule R311). -/
def State.resumed (s : State) (regs : RegFile) (patch : List Host.Cell) : State :=
  { s with
    regs := regs.cut s.xlen
    mem := s.mem.writeAll (accessibleCells s.params patch)
    status := .running
    hostAnswers := s.hostAnswers.tail }

/-- The shapes of a next state of a step from `s`. -/
inductive StepEffect (s : State) : State → Prop
  /-- The instruction at `pc` is executed. -/
  | execute (i : Instr) (l : Nat) (t : State) : s.status = .running → isStart s.params s.pc = true →
      progAt s.params s.pc = some (i, l) → Effect i s t → StepEffect s t
  /-- The fetch traps. -/
  | fetchTrap (r : TrapReason) : s.status = .running → StepEffect s (s.trap r)
  /-- The host resumes the machine. -/
  | resume (k : Nat) (regs : RegFile) (patch : List Host.Cell) : s.status = .inHostCall k →
      s.hostAnswer k = .resume regs patch → StepEffect s (s.resumed regs patch)

theorem hostReturn_resume {s : State} {k : Nat} {regs : RegFile} {patch : List Host.Cell}
    (h : s.hostAnswer k = .resume regs patch) : hostReturn k s = .next (s.resumed regs patch) := by
  simp only [hostReturn, h]
  rfl

theorem hostReturn_stop {s : State} {k : Nat} (h : s.hostAnswer k = .stop) :
    hostReturn k s = .fault (.runEnded k) := by
  simp only [hostReturn, h]

theorem step_of_inHostCall {s : State} {k : Nat} (h : s.status = .inHostCall k) : step s = hostReturn k s := by
  simp only [step, h]

/-- Everything a step can do when it answers a next state. -/
theorem step_effect {s t : State} (h : step s = .next t) : StepEffect s t := by
  cases hst : s.status with
  | running =>
    rcases fetch_cases s with ⟨hstart, i, l, hprog, hf⟩ | ⟨-, -, hf⟩ | ⟨-, hf⟩
    · rw [step_of_fetch_ok hst hf] at h
      exact .execute i l t hst hstart hprog (exec_effect h)
    · rw [step_of_fetch_error hst hf] at h
      cases h
      exact .fetchTrap _ hst
    · rw [step_of_fetch_error hst hf] at h
      cases h
      exact .fetchTrap _ hst
  | trapped r =>
    rw [step_of_trapped hst] at h
    cases h
  | inHostCall k =>
    rw [step_of_inHostCall hst] at h
    cases ha : s.hostAnswer k with
    | stop =>
      rw [hostReturn_stop ha] at h
      cases h
    | resume regs patch =>
      rw [hostReturn_resume ha] at h
      cases h
      exact .resume k regs patch hst ha

/-! ## Parameters -/

theorem Effect.params_eq {i : Instr} {s t : State} (h : Effect i s t) : t.params = s.params := by
  cases h <;> rfl

/-- Settles O13: instructions, traps and the host's return all keep `params`. -/
theorem parametersNeverChange : Obligations.ParametersNeverChange := by
  intro s t h
  cases step_effect h with
  | execute i l t _ _ _ heffect => exact heffect.params_eq
  | fetchTrap r _ => rfl
  | resume k regs patch _ _ => rfl

/-! ## Traps and host calls -/

/-- Of the effects only a trap ends in a trap. -/
theorem Effect.eq_trap {i : Instr} {s t : State} {r : TrapReason} (h : Effect i s t) (hrun : s.status = .running)
    (ht : t.status = .trapped r) : t = s.trap r := by
  cases h with
  | trap r' =>
    cases ht
    rfl
  | call imm hi => cases ht
  | move | write | jump | store => cases hrun.symm.trans ht

/-- Of the effects only a call ends in a host call. -/
theorem Effect.eq_ecalli {i : Instr} {s t : State} {k : Nat} (h : Effect i s t) (hrun : s.status = .running)
    (ht : t.status = .inHostCall k) : ∃ imm : Imm32, i = .ecalli imm ∧ k = imm.toNat := by
  cases h with
  | trap r => cases ht
  | call imm hi =>
    cases ht
    exact ⟨imm, hi, rfl⟩
  | move | write | jump | store => cases hrun.symm.trans ht

/-- Settles O14: an instruction that traps changes the status only, and so does the fetch. -/
theorem trapsArePrecise : Obligations.TrapsArePrecise := by
  intro s t r hrun h ht
  cases step_effect h with
  | execute i l t _ _ _ heffect => exact heffect.eq_trap hrun ht
  | fetchTrap r' _ =>
    cases ht
    rfl
  | resume k regs patch hcall _ => cases hrun.symm.trans hcall

/-- Settles O15: by the effects of an instruction. -/
theorem onlyEcalliCallsTheHost : Obligations.OnlyEcalliCallsTheHost :=
  fun _ _ _ _ hrun h ht => (exec_effect h).eq_ecalli hrun ht

/-- Settles O10: the two branches of a step that answer a fault. -/
theorem stepsThatDoNotExistAreFaults : Obligations.StepsThatDoNotExistAreFaults := by
  refine fun s => ⟨fun r htrapped => step_of_trapped htrapped, fun k hcall hstop => ?_⟩
  rw [step_of_inHostCall hcall, hostReturn_stop hstop]

/-- Settles O25: both meanings are one update of the state each. -/
theorem trapAndHostCall : Obligations.TrapAndHostCall :=
  fun _ _ => ⟨rfl, rfl, rfl, rfl⟩

/-! ## The program counter -/

theorem isStart_of_validTarget {p : Params} {t : Int} (h : validTarget p t = true) : isStart p t.toNat = true := by
  simp only [validTarget, Bool.and_eq_true] at h
  exact h.2

/-- Behind the instruction at a start comes another start or the end of the code (rule R66). -/
theorem pcFits_of_progAt {s t : State} {i : Instr} {l : Nat} (hstart : isStart s.params s.pc = true)
    (hprog : progAt s.params s.pc = some (i, l)) (hparams : t.params = s.params)
    (hpc : t.pc = s.pc + s.len (lengthOf i)) : t.pcFits := by
  obtain ⟨hlen, hle⟩ := len_of_progAt hprog
  have hstarts : Starts s.params s.pc := (startsAreTheLinearSweep _ _).mp hstart
  have hlt := lt_length_of_isStart hstart
  rw [List.length_drop] at hle
  rw [State.pcFits, hparams, hpc, hlen]
  rcases Nat.lt_or_ge (s.pc + l) s.params.code.length with h | h
  · exact .inl ((startsAreTheLinearSweep _ _).mpr (.next s.pc i l hstarts hprog h))
  · exact .inr (by omega)

/-- Settles O19: an instruction moves on by the length reported at its start or jumps to a valid target; traps and the host
keep `pc`. -/
theorem pcStaysOnInstructionStarts : Obligations.PcStaysOnInstructionStarts := by
  intro s t hfits h
  cases step_effect h with
  | fetchTrap r _ => exact hfits
  | resume k regs patch _ _ => exact hfits
  | execute i l t _ hstart hprog heffect =>
    cases heffect with
    | trap r => exact hfits
    | jump target hvalid => exact .inl (isStart_of_validTarget hvalid)
    | move | write | call | store => exact pcFits_of_progAt hstart hprog rfl rfl

/-! ## Registers and memory -/

theorem width_le_64 (m : Mode) : m.width ≤ 64 := by
  cases m <;> decide

/-- A value of at most `XLEN` bits fits in its cell. -/
theorem toNat_setWidth_64_lt {w : Nat} (v : BitVec w) : (v.setWidth 64).toNat < 2 ^ w := by
  rw [BitVec.toNat_setWidth]
  exact (Nat.mod_le _ _).trans_lt v.isLt

theorem regsFit_setReg {s : State} (h : s.regsFit) (d : Reg) (v : BitVec s.xlen) : (s.setReg d v).regsFit := by
  intro r
  by_cases hr : r = d
  · subst hr
    rw [setReg_regs, RegFile.get_set_self]
    exact toNat_setWidth_64_lt v
  · rw [setReg_regs, RegFile.get_set_other _ _ hr]
    exact h r

theorem regsFit_cut (f : RegFile) (n : Nat) (r : Reg) : ((f.cut n).get r).toNat < 2 ^ n := by
  rw [RegFile.get_cut]
  exact toNat_setWidth_64_lt _

theorem readable_of_writable {p : Params} {a : Nat} (h : writable p a = true) : readable p a = true := by
  have hrw : accessAt p a = .rw := by simpa [writable] using h
  simp [readable, hrw]

/-- Memory stays fit when cells are written at readable addresses. -/
theorem memFits_writeAll {s t : State} {cells : List Host.Cell} (h : s.memFits)
    (hcells : ∀ c ∈ cells, readable s.params c.1 = true) (hparams : t.params = s.params)
    (hmem : t.mem = s.mem.writeAll cells) : t.memFits := by
  obtain ⟨hwf, haccess⟩ := h
  rw [State.memFits, hmem, hparams]
  refine ⟨Memory.wf_writeAll _ _ hwf, fun c hc => ?_⟩
  rcases Memory.mem_writeAll _ _ hc with hc | hc
  · exact hcells c hc
  · exact haccess c hc

theorem writable_of_canWrite {s : State} {a : BitVec s.xlen} {n x : Nat} (h : s.canWrite a n = true)
    (hx : x ∈ block a n) : writable s.params x = true :=
  List.all_eq_true.mp h x hx

theorem readable_of_mem_accessibleCells {p : Params} {cells : List Host.Cell} {c : Host.Cell}
    (h : c ∈ accessibleCells p cells) : readable p c.1 = true :=
  (List.mem_filter.mp h).2

theorem Effect.regsFit {i : Instr} {s t : State} (h : Effect i s t) (hs : s.regsFit) : t.regsFit := by
  cases h with
  | write d v => exact regsFit_setReg hs d v
  | trap | move | jump | call | store => exact hs

theorem Effect.memFits {i : Instr} {s t : State} (h : Effect i s t) (hs : s.memFits) : t.memFits := by
  cases h with
  | trap | move | write | jump | call => exact hs
  | store a bs n hw =>
    refine memFits_writeAll (cells := (block a bs.length).zip bs) hs (fun c hc => ?_) rfl rfl
    exact readable_of_writable (writable_of_canWrite hw (List.of_mem_zip hc).1)

theorem memFits_resumed {s : State} (h : s.memFits) (regs : RegFile) (patch : List Host.Cell) :
    (s.resumed regs patch).memFits :=
  memFits_writeAll h (fun _ => readable_of_mem_accessibleCells) rfl rfl

/-- Settles O20: a register is written at `XLEN` bits by instructions and by the host, and both write memory only at
accessible addresses and by the writes that keep the canonical form. -/
theorem registersAndMemoryStayFit : Obligations.RegistersAndMemoryStayFit := by
  intro s t hregs hmem h
  cases step_effect h with
  | execute i l t _ _ _ heffect => exact ⟨heffect.regsFit hregs, heffect.memFits hmem⟩
  | fetchTrap r _ => exact ⟨hregs, hmem⟩
  | resume k regs patch _ _ => exact ⟨regsFit_cut regs _, memFits_resumed hmem regs patch⟩

theorem Effect.read_of_not_rw {i : Instr} {s t : State} {a : Nat} (h : Effect i s t)
    (ha : accessAt s.params a ≠ .rw) : t.mem.read a = s.mem.read a := by
  cases h with
  | trap | move | write | jump | call => rfl
  | store base bs n hw =>
    refine read_putBytes_other s base bs fun hin => ha ?_
    simpa [writable] using writable_of_canWrite hw hin

/-- Settles O18: the only effect that touches memory is a store whose addresses are all writable. -/
theorem guestWritesOnlyWritableBytes : Obligations.GuestWritesOnlyWritableBytes := by
  intro s t a hrun h ha
  cases step_effect h with
  | execute i l t _ _ _ heffect => exact heffect.read_of_not_rw ha
  | fetchTrap r _ => rfl
  | resume k regs patch hcall _ => cases hrun.symm.trans hcall

/-! ## What the host gives -/

theorem toNat_setWidth_setWidth_64 (v : Word) {n : Nat} (hn : n ≤ 64) :
    ((v.setWidth n).setWidth 64).toNat = v.toNat % 2 ^ n := by
  rw [BitVec.toNat_setWidth, BitVec.toNat_setWidth]
  exact Nat.mod_eq_of_lt ((Nat.mod_lt _ (by positivity)).trans_le (Nat.pow_le_pow_right (by decide) hn))

theorem uval_eq (s : State) (r : Reg) : s.uval r = (s.regs.get r).toNat % 2 ^ s.xlen :=
  BitVec.toNat_setWidth _ _

/-- Registers cut to `XLEN` bits are seen as the values given, modulo `2^XLEN`. -/
theorem uval_of_regs_cut {t : State} {regs : RegFile} (h : t.regs = regs.cut t.xlen) (r : Reg) :
    t.uval r = (regs.get r).toNat % 2 ^ t.xlen := by
  rw [uval_eq, h, RegFile.get_cut, toNat_setWidth_setWidth_64 _ (width_le_64 _), Nat.mod_mod]

theorem mem_accessibleCells {p : Params} {cells : List Host.Cell} {c : Host.Cell} :
    c ∈ accessibleCells p cells ↔ c ∈ cells ∧ accessAt p c.1 ≠ .none := by
  simp [accessibleCells, readable]

theorem accessibleCells_fst_subset {p : Params} {cells : List Host.Cell} {a : Nat}
    (h : a ∈ (accessibleCells p cells).map Prod.fst) : a ∈ cells.map Prod.fst ∧ accessAt p a ≠ .none := by
  obtain ⟨c, hc, rfl⟩ := List.mem_map.mp h
  obtain ⟨hin, hacc⟩ := mem_accessibleCells.mp hc
  exact ⟨List.mem_map_of_mem hin, hacc⟩

/-- A byte given once for an accessible address is there afterwards. -/
theorem read_writeAll_accessibleCells {p : Params} {cells : List Host.Cell} {a : Nat} {b : Byte} (m : Memory)
    (hnodup : (cells.map Prod.fst).Nodup) (hin : (a, b) ∈ cells) (hacc : accessAt p a ≠ .none) :
    (m.writeAll (accessibleCells p cells)).read a = b :=
  Memory.read_writeAll_mem m _ (hnodup.sublist (List.filter_sublist.map _)) (mem_accessibleCells.mpr ⟨hin, hacc⟩)

theorem RegFile.ext_get {f g : RegFile} (h : ∀ r, f.get r = g.get r) : f = g := by
  cases f
  cases g
  simp only [RegFile.mk.injEq]
  exact ⟨h .ra, h .sp, h .t0, h .t1, h .t2, h .s0, h .s1, h .a0, h .a1, h .a2, h .a3, h .a4, h .a5⟩

/-- Registers that agree at `XLEN` bits are the same to the host. -/
theorem cut_eq_of_uval_eq {s s' : State} (h : ∀ r, s'.uval r = s.uval r) :
    s'.regs.cut s'.xlen = s.regs.cut s.xlen := by
  refine RegFile.ext_get fun r => BitVec.eq_of_toNat_eq ?_
  rw [RegFile.get_cut, RegFile.get_cut, toNat_setWidth_setWidth_64 _ (width_le_64 _),
    toNat_setWidth_setWidth_64 _ (width_le_64 _), ← uval_eq, ← uval_eq, h r]

/-- Settles O11: what the host gives is cut to `XLEN` bits and filtered by access; where nothing is assumed, the answer is
the oracle's on what the host sees. -/
theorem hostResumes : Obligations.HostResumes := by
  refine fun s k hcall => ⟨fun regs patch hans => ?_, fun a rest h => hostAnswer_cons h k, fun hnil => ⟨?_, ?_⟩⟩
  · refine ⟨s.resumed regs patch, by rw [step_of_inHostCall hcall, hostReturn_resume hans], rfl, rfl, rfl, rfl,
      uval_of_regs_cut rfl, fun a ha => ?_, fun a ha => ?_, fun a b => read_writeAll_accessibleCells s.mem⟩
    · exact Memory.read_writeAll_other _ _ fun hin => (accessibleCells_fst_subset hin).2 ha
    · exact Memory.read_writeAll_other _ _ fun hin => ha (accessibleCells_fst_subset hin).1
  · rw [step_of_inHostCall hcall]
    cases hans : s.hostAnswer k with
    | resume regs patch => exact .inl ⟨_, hostReturn_resume hans, rfl, rfl⟩
    | stop => exact .inr (hostReturn_stop hans)
  · intro s' hnil' hparams hregs hpc hmem
    rw [hostAnswer_nil hnil, hostAnswer_nil hnil', cut_eq_of_uval_eq hregs, hparams, hpc, hmem]

/-! ## Launch and reset -/

theorem memFits_launch (p : Params) (entry : Nat) (regs : RegFile) (cells : List Host.Cell)
    (answers : List HostAnswer) : (State.launch p entry regs cells answers).memFits := by
  refine ⟨Memory.wf_writeAll [] _ rfl, fun c hc => ?_⟩
  rcases Memory.mem_writeAll _ _ hc with hc | hc
  · exact readable_of_mem_accessibleCells hc
  · cases hc

/-- Settles O21: the launch cuts and filters what the host supplies as a host call does. -/
theorem launchState : Obligations.LaunchState := by
  intro p entry regs cells answers
  refine ⟨rfl, rfl, rfl, uval_of_regs_cut rfl, fun a b => read_writeAll_accessibleCells [], ?_, ?_⟩
  · exact regsFit_cut regs _
  · exact memFits_launch p entry regs cells answers

theorem reset_eq_launch : State.reset = State.launch Params.atReset 0 RegFile.atReset [] [] := by decide

/-- Settles O22: the reset state is a launch, and `pc` stands at the end of its empty code. -/
theorem resetMeetsTheInvariants : Obligations.ResetMeetsTheInvariants := by
  refine ⟨rfl, ?_, ?_, .inr rfl, reset_eq_launch⟩
  · rw [reset_eq_launch]
    exact regsFit_cut _ _
  · rw [reset_eq_launch]
    exact memFits_launch _ _ _ _ _

end Sys2Proof.Machine
end

section
/-! PROOFS. Which instructions answer, trap or refuse (60_exceptions.md rules R300, R302; 30_encoding.md rule R80): for each
shared operation under which premise it completes, and the instructions sorted by the operation they are. -/

namespace Sys2Proof.Machine

/-! ## Instructions that always answer a next state -/

/-- An answer is a next state. -/
def Answered (o : Result) : Prop := ∃ t, o = .next t

theorem answered_next (t : State) : Answered (.next t) := ⟨t, rfl⟩

theorem answered_in64 {s : State} {k : Result} (h : Answered k) : Answered (in64 s k) := by
  rcases in64_cases s k with ⟨-, e⟩ | ⟨-, e⟩ <;> rw [e]
  · exact h
  · exact answered_next _

theorem altForm_not_swapped {s : State} (h : s.params.altSwapsOperands = false) (k : Result) : altForm s k = k := by
  simp [altForm, h]

theorem altForm_swapped {s : State} (h : s.params.altSwapsOperands = true) (k : Result) :
    altForm s k = .refused .altOperandsSwapped := by
  simp [altForm, h]

theorem answered_altForm {s : State} (halt : s.params.altSwapsOperands = false) {k : Result} (h : Answered k) :
    Answered (altForm s k) := by
  rwa [altForm_not_swapped halt]

theorem answered_remain {s : State} (hrem : s.params.remTrapsLikeDiv = true) (W : Nat) (signed : Bool) (d r : Reg) :
    Answered (remain W signed d r s) := by
  rcases remain_cases W signed d r s with ⟨_, -, -, e⟩ | ⟨_, -, hfalse, -⟩ | ⟨-, e⟩
  · exact ⟨_, e⟩
  · cases hrem.symm.trans hfalse
  · exact ⟨_, e⟩

theorem answered_divide (s : State) (W : Nat) (signed : Bool) (d r : Reg) : Answered (divide W signed d r s) := by
  rcases divide_cases W signed d r s with ⟨_, -, e⟩ | ⟨-, e⟩ <;> exact ⟨_, e⟩

theorem answered_jumpTo (s : State) (t : Int) : Answered (jumpTo t s) := by
  rcases jumpTo_cases t s with ⟨-, e⟩ | ⟨-, e⟩ <;> exact ⟨_, e⟩

theorem answered_branch (s : State) (c : Cond) (r1 r2 : Reg) (off : Imm32) : Answered (branch c r1 r2 off s) := by
  rcases branch_cases c r1 r2 off s with ⟨-, e⟩ | ⟨-, e⟩ <;> rw [e]
  · exact answered_jumpTo s _
  · exact answered_next _

theorem answered_loadZero (s : State) (n : Nat) (d b : Reg) (o : Imm32) : Answered (loadZero n d b o s) := by
  rcases loadZero_cases n d b o s with ⟨-, e⟩ | ⟨-, e⟩ <;> exact ⟨_, e⟩

theorem answered_loadSign (s : State) (n : Nat) (d b : Reg) (o : Imm32) : Answered (loadSign n d b o s) := by
  rcases loadSign_cases n d b o s with ⟨-, e⟩ | ⟨-, e⟩ <;> exact ⟨_, e⟩

theorem answered_storeReg (s : State) (n : Nat) (r b : Reg) (o : Imm32) : Answered (storeReg n r b o s) := by
  rcases storeReg_cases n r b o s with ⟨-, e⟩ | ⟨-, e⟩ <;> exact ⟨_, e⟩

theorem answered_storeConst (s : State) (n : Nat) (imm : Imm32) (v : BitVec (8 * n)) :
    Answered (storeConst n imm v s) := by
  rcases storeConst_cases n imm v s with ⟨-, e⟩ | ⟨-, e⟩ <;> exact ⟨_, e⟩

theorem answered_ite {c : Prop} [Decidable c] {k l : Result} (hk : Answered k) (hl : Answered l) :
    Answered (if c then k else l) := by
  split <;> assumption

theorem answered_jump (s : State) (off : Imm32) : Answered (execJump off s) := by
  unfold execJump
  split
  · exact answered_jumpTo s _
  · exact answered_next _

theorem answered_memcpy (s : State) (src dest : Reg) : Answered (execMemcpy src dest s) := by
  rcases execMemcpy_cases src dest s with ⟨-, -, -, e⟩ | ⟨-, -, -, e⟩ | ⟨-, e⟩ <;> exact ⟨_, e⟩

theorem answered_memset (s : State) : Answered (execMemset s) := by
  rcases execMemset_cases s with ⟨-, e⟩ | ⟨-, e⟩ <;> exact ⟨_, e⟩

/-- Only the two parameters can make an instruction refuse (93_implementation_defined.md U4, U12). -/
theorem answered_exec {s : State} (hrem : s.params.remTrapsLikeDiv = true)
    (halt : s.params.altSwapsOperands = false) (i : Instr) : Answered (exec i s) := by
  cases i
  case jump => exact answered_jump s _
  case memcpy => exact answered_memcpy s _ _
  case memset => exact answered_memset s
  case cmovIfZero | cmovIfNotZero | cmovIfZeroImm | cmovIfNotZeroImm =>
    exact answered_ite (answered_next _) (answered_next _)
  case branchEq | branchNotEq | branchLessUnsigned | branchLessSigned | branchGreaterOrEqualUnsigned |
    branchGreaterOrEqualSigned => exact answered_branch s _ _ _ _
  case load8 | load16 | load32 => exact answered_loadZero s _ _ _ _
  case load8Signed | load16Signed | load32Signed => exact answered_loadSign s _ _ _ _
  case store8 | store16 | store32 => exact answered_storeReg s _ _ _ _
  case storeImmU8 | storeImmU16 | storeImmU32 => exact answered_storeConst s _ _ _
  case load64 => exact answered_in64 (answered_loadZero s _ _ _ _)
  case store64 => exact answered_in64 (answered_storeReg s _ _ _ _)
  case storeImmU64 => exact answered_in64 (answered_storeConst s _ _ _)
  case divUnsigned32 | divSigned32 => exact answered_divide s _ _ _ _
  case divUnsigned64 | divSigned64 => exact answered_in64 (answered_divide s _ _ _ _)
  case remUnsigned32 | remSigned32 => exact answered_remain hrem _ _ _ _
  case remUnsigned64 | remSigned64 => exact answered_in64 (answered_remain hrem _ _ _ _)
  case shiftLogicalLeftImmAlt32 | shiftLogicalRightImmAlt32 | shiftArithmeticRightImmAlt32 | rotateRightImmAlt32 =>
    exact answered_altForm halt (answered_next _)
  case shiftLogicalLeftImmAlt64 | shiftLogicalRightImmAlt64 | shiftArithmeticRightImmAlt64 | rotateRightImmAlt64 =>
    exact answered_in64 (answered_altForm halt (answered_next _))
  case loadImmU64 | countLeadingZeroBits64 | countTrailingZeroBits64 | rotateRightImm64 | add64 | sub64 | mul64 |
    shiftLogicalLeft64 | shiftLogicalRight64 | shiftArithmeticRight64 | rotateLeft64 | rotateRight64 =>
    exact answered_in64 (answered_next _)
  all_goals exact answered_next _

/-- Settles O12: a fetch that fails answers the machine after its trap, and an instruction answers by `answered_exec`. -/
theorem runningMachineAlwaysSteps : Obligations.RunningMachineAlwaysSteps := by
  intro s hrun hrem halt
  cases hf : fetch s with
  | error r => exact ⟨_, step_of_fetch_error hrun hf⟩
  | ok i =>
    rw [step_of_fetch_ok hrun hf]
    exact answered_exec hrem halt i

/-! ## Instructions that never trap -/

/-- An answer is no trap. -/
def TrapFree (o : Result) : Prop := ∀ t r, o = .next t → t.status ≠ .trapped r

section
variable {s : State}

theorem trapFree_of_running {t : State} (h : t.status = .running) : TrapFree (.next t) := by
  rintro _ r ⟨⟩ ht
  cases h.symm.trans ht

theorem trapFree_ecalli (imm : Imm32) (s : State) : TrapFree (execEcalli imm s) := by
  rintro _ r ⟨⟩ ht
  cases ht

theorem trapFree_refused (r : Refusal) : TrapFree (.refused r) := by
  rintro _ _ ⟨⟩

theorem trapFree_writeReg (hrun : s.status = .running) (f : Format) (d : Reg) (v : BitVec s.xlen) :
    TrapFree (writeReg f d s v) :=
  trapFree_of_running hrun

theorem trapFree_in64 (hmode : s.params.mode = .x64) {k : Result} (h : TrapFree k) : TrapFree (in64 s k) := by
  rwa [in64_x64 hmode]

theorem trapFree_altForm {k : Result} (h : TrapFree k) : TrapFree (altForm s k) := by
  rcases altForm_cases s k with ⟨-, e⟩ | ⟨-, e⟩ <;> rw [e]
  · exact h
  · exact trapFree_refused _

theorem trapFree_cmov (hrun : s.status = .running) {c : Prop} [Decidable c] (f : Format) (d : Reg)
    (v : BitVec s.xlen) : TrapFree (if c then writeReg f d s v else finish f s) := by
  split <;> exact trapFree_of_running hrun

end

/-- Settles O16: what is left outside the list writes one register, moves on or calls the host. -/
theorem onlyListedInstructionsTrap : Obligations.OnlyListedInstructionsTrap := by
  intro i s t hrun hexec hnot hmode r
  suffices hfree : TrapFree (exec i s) from hfree t r hexec
  cases i
  case ecalli => exact trapFree_ecalli _ s
  case unlikely | fallthrough => exact trapFree_of_running hrun
  case cmovIfZero | cmovIfNotZero | cmovIfZeroImm | cmovIfNotZeroImm => exact trapFree_cmov hrun _ _ _
  case shiftLogicalLeftImmAlt32 | shiftLogicalRightImmAlt32 | shiftArithmeticRightImmAlt32 | rotateRightImmAlt32 =>
    exact trapFree_altForm (trapFree_writeReg hrun _ _ _)
  case shiftLogicalLeftImmAlt64 | shiftLogicalRightImmAlt64 | shiftArithmeticRightImmAlt64 | rotateRightImmAlt64 =>
    exact trapFree_in64 (hmode.resolve_right (by simp [opcodeOf]))
      (trapFree_altForm (trapFree_writeReg hrun _ _ _))
  case loadImmU64 | countLeadingZeroBits64 | countTrailingZeroBits64 | rotateRightImm64 | add64 | sub64 | mul64 |
    shiftLogicalLeft64 | shiftLogicalRight64 | shiftArithmeticRight64 | rotateLeft64 | rotateRight64 =>
    exact trapFree_in64 (hmode.resolve_right (by simp [opcodeOf])) (trapFree_writeReg hrun _ _ _)
  case loadImmU8 | loadImmU16 | loadImmU32 | loadImmS32 | moveReg | countLeadingZeroBits32 |
    countTrailingZeroBits32 | countOnes | swapBytes | setLessThanUnsignedImm | setGreaterThanSignedImm |
    rotateRightImm32 | add32 | sub32 | mul32 | shiftLogicalLeft32 | shiftLogicalRight32 | shiftArithmeticRight32 |
    bitwiseAnd | bitwiseXor | bitwiseOr | mulUpperSignedSigned | mulUpperUnsignedUnsigned | mulUpperSignedUnsigned |
    setLessThanUnsigned | setLessThanSigned | rotateLeft32 | rotateRight32 | andInverted | orInverted | xnor |
    maximum | maximumUnsigned | minimum | minimumUnsigned => exact trapFree_writeReg hrun _ _ _
  all_goals simp [opcodeOf] at hnot

/-! ## Instructions that one mode or one parameter excludes -/

/-- Settles O17: each of the 23 meanings begins with the check of the mode. -/
theorem sixtyFourBitFormsTrapIn32BitMode : Obligations.SixtyFourBitFormsTrapIn32BitMode := by
  intro i s hmode hop
  cases i
  case loadImmU64 | storeImmU64 | load64 | store64 | countLeadingZeroBits64 | countTrailingZeroBits64 |
    shiftLogicalLeftImmAlt64 | shiftLogicalRightImmAlt64 | shiftArithmeticRightImmAlt64 | rotateRightImm64 |
    rotateRightImmAlt64 | add64 | sub64 | mul64 | divUnsigned64 | divSigned64 | remUnsigned64 | remSigned64 |
    shiftLogicalLeft64 | shiftLogicalRight64 | shiftArithmeticRight64 | rotateLeft64 | rotateRight64 =>
    exact in64_x32 hmode _
  all_goals simp [opcodeOf] at hop

/-- Settles O50: each of the eight meanings begins with the check of the parameter, the 64-bit ones after that of the mode. -/
theorem swappedAltFormsAreRefused : Obligations.SwappedAltFormsAreRefused := by
  intro s reg shift unused i halt hi
  rcases hi with hi | ⟨hmode, hi⟩ <;> simp only [List.mem_cons, List.not_mem_nil, or_false] at hi
  · rcases hi with rfl | rfl | rfl | rfl <;> exact altForm_swapped halt _
  · rcases hi with rfl | rfl | rfl | rfl <;> exact (in64_x64 hmode _).trans (altForm_swapped halt _)

end Sys2Proof.Machine
end

section
/-! PROOFS. Data memory (20_memory.md): the value that bytes have and the bytes that a value has, the checks on a block, and
what stores and block operations leave as it was. -/

namespace Sys2Proof.Machine

/-! ## Values as numbers -/

theorem toInt_eq_signedOf {W : Nat} (v : BitVec W) : v.toInt = signedOf W v.toNat := by
  have hv := v.isLt
  rw [BitVec.toInt_eq_toNat_cond, signedOf]
  cases W with
  | zero => simp
  | succ W =>
    rw [Nat.add_sub_cancel]
    simp [pow_succ']

theorem simm_toNat (s : State) (imm : Imm32) : (s.simm imm).toNat = s.simmU imm :=
  BitVec.toNat_ofInt _

theorem simm_toInt (s : State) (imm : Imm32) : (s.simm imm).toInt = imm.toInt := by
  refine BitVec.toInt_signExtend_of_le ?_
  rcases xlen_eq s with h | h <;> omega

theorem sval_writeReg_self (f : Format) (s : State) (dest : Reg) (v : BitVec s.xlen) :
    ((s.setReg dest v).advance f).sval dest = v.toInt :=
  congrArg BitVec.toInt (reg_setReg_self s dest v)

theorem low_toInt (s : State) (W : Nat) (r : Reg) : (s.low W r).toInt = s.lowS W r := by
  rw [toInt_eq_signedOf, low_toNat, State.lowS]

theorem eq_of_uval_eq {s : State} {r1 r2 : Reg} (h : s.uval r1 = s.uval r2) : s.reg r1 = s.reg r2 :=
  BitVec.eq_of_toNat_eq h

/-! ## The bytes of a value and the value of bytes -/

/-- The value of bytes is their sum at their places, least significant first (rule R43). -/
theorem bytesValue_map_range (b : Nat → Byte) (n : Nat) :
    bytesValue ((List.range n).map b) = ∑ i ∈ Finset.range n, 2 ^ (8 * i) * (b i).toNat := by
  induction n generalizing b with
  | zero => rfl
  | succ n ih =>
    rw [List.range_succ_eq_map, List.map_cons, List.map_map, bytesValue, ih, Finset.sum_range_succ', Finset.mul_sum,
      Nat.add_comm]
    congr 1
    · refine Finset.sum_congr rfl fun i _ => ?_
      rw [Function.comp_apply, Nat.mul_succ, Nat.pow_add]
      ring
    · simp

theorem bytesValue_lt (bs : List Byte) : bytesValue bs < 2 ^ (8 * bs.length) := by
  induction bs with
  | nil => simp [bytesValue]
  | cons b bs ih =>
    have hb : b.toNat < 256 := b.isLt
    rw [bytesValue, List.length_cons, Nat.mul_succ, Nat.pow_add]
    omega

theorem valueBytes_getElem_toNat {w : Nat} (v : BitVec w) (n : Nat) {i : Nat} (hi : i < (valueBytes v n).length) :
    ((valueBytes v n)[i]).toNat = v.toNat / 2 ^ (8 * i) % 256 := by
  simp [valueBytes, Nat.shiftRight_eq_div_pow]

theorem valueBytes_succ {w : Nat} (v : BitVec w) (n : Nat) :
    valueBytes v (n + 1) = v.extractLsb' 0 8 :: valueBytes (v >>> 8) n := by
  rw [valueBytes, List.range_succ_eq_map, List.map_cons, List.map_map]
  congr 1
  refine List.map_congr_left fun i _ => BitVec.eq_of_toNat_eq ?_
  simp [Nat.mul_succ, Nat.add_comm, Nat.shiftRight_add]

/-- The bytes of a value have that value, as far as they go. -/
theorem bytesValue_valueBytes {w : Nat} (v : BitVec w) (n : Nat) :
    bytesValue (valueBytes v n) = v.toNat % 2 ^ (8 * n) := by
  induction n generalizing v with
  | zero => simp [valueBytes, bytesValue, Nat.mod_one]
  | succ n ih =>
    have hpow : 2 ^ (8 * (n + 1)) = 256 * 2 ^ (8 * n) := by rw [Nat.mul_succ, Nat.pow_add, Nat.mul_comm]
    rw [valueBytes_succ, bytesValue, ih, hpow, Nat.mod_mul]
    simp [Nat.shiftRight_eq_div_pow]

theorem ofNat_bytesValue_valueBytes {n : Nat} (v : BitVec (8 * n)) :
    BitVec.ofNat (8 * n) (bytesValue (valueBytes v n)) = v := by
  rw [bytesValue_valueBytes, Nat.mod_eq_of_lt v.isLt, BitVec.ofNat_toNat, BitVec.setWidth_eq]

/-! ## Access to a block -/

theorem block_getElem {w : Nat} (a : BitVec w) (n : Nat) {i : Nat} (hi : i < (block a n).length) :
    (block a n)[i] = (a.toNat + i) % 2 ^ w := by
  simp [block]

theorem block_map {α : Type} {w : Nat} (a : BitVec w) (n : Nat) (f : Nat → α) :
    (block a n).map f = (List.range n).map fun i => f ((a.toNat + i) % 2 ^ w) := by
  simp [block]

theorem canRead_iff (s : State) (a : BitVec s.xlen) (n : Nat) :
    s.canRead a n = true ↔ ∀ i < n, accessAt s.params (s.wrap a.toNat i) ≠ .none := by
  simp [State.canRead, block, readable, State.wrap]

theorem canWrite_iff (s : State) (a : BitVec s.xlen) (n : Nat) :
    s.canWrite a n = true ↔ ∀ i < n, accessAt s.params (s.wrap a.toNat i) = .rw := by
  simp [State.canWrite, block, writable, State.wrap]

theorem canRead_of_canWrite {s : State} {a : BitVec s.xlen} {n : Nat} (h : s.canWrite a n = true) :
    s.canRead a n = true :=
  List.all_eq_true.mpr fun _ hx => readable_of_writable (writable_of_canWrite h hx)

theorem canRead_eq_false {s : State} {a : BitVec s.xlen} {n : Nat}
    (h : ∃ i < n, accessAt s.params (s.wrap a.toNat i) = .none) : s.canRead a n = false := by
  obtain ⟨i, hi, hnone⟩ := h
  exact Bool.eq_false_iff.mpr fun hread => (canRead_iff s a n).mp hread i hi hnone

theorem canWrite_eq_false {s : State} {a : BitVec s.xlen} {n : Nat}
    (h : ∃ i < n, accessAt s.params (s.wrap a.toNat i) ≠ .rw) : s.canWrite a n = false := by
  obtain ⟨i, hi, hnot⟩ := h
  exact Bool.eq_false_iff.mpr fun hwrite => hnot ((canWrite_iff s a n).mp hwrite i hi)

/-! ## Storing and reading back -/

theorem le_two_pow_xlen {s : State} {n : Nat} (hn : n ≤ 8) : n ≤ 2 ^ s.xlen := by
  rcases xlen_eq s with h | h <;> rw [h] <;> omega

/-- What bytes put into memory at consecutive addresses leave as it was, free bytes drawn or not. -/
theorem keepsRegs_putBytes (f : Format) (s : State) (a : BitVec s.xlen) {bs : List Byte} {n : Nat}
    (hlen : bs.length = n) (k : Nat) :
    KeepsRegs s (((s.putBytes a bs).drawFree k).advance f) (block a n) (formatLength f) where
  regs _ := rfl
  mem _ hx := read_putBytes_other s a bs (hlen ▸ hx)
  pc := rfl
  status := rfl
  params := rfl
  hostAnswers := rfl

theorem read_putBytes_valueBytes (s : State) (a : BitVec s.xlen) {w n : Nat} (v : BitVec w) (hn : n ≤ 2 ^ s.xlen)
    {i : Nat} (hi : i < n) :
    ((s.putBytes a (valueBytes v n)).mem.read (s.wrap a.toNat i)).toNat = v.toNat / 2 ^ (8 * i) % 256 := by
  have hlen : (valueBytes v n).length = n := valueBytes_length v n
  rw [State.wrap, read_putBytes_at s a _ (hlen.trans_le hn) (hlen.symm ▸ hi), valueBytes_getElem_toNat]

theorem map_read_putBytes (s : State) (a : BitVec s.xlen) (bs : List Byte) (hn : bs.length ≤ 2 ^ s.xlen) :
    (block a bs.length).map (s.putBytes a bs).mem.read = bs := by
  refine List.ext_getElem (by simp) fun i hi hi' => ?_
  rw [List.getElem_map, block_getElem, read_putBytes_at s a bs hn hi']

theorem memRead_putBytes_valueBytes {s : State} {a : BitVec s.xlen} {n : Nat} (v : BitVec (8 * n))
    (hn : n ≤ 2 ^ s.xlen) (hw : s.canWrite a n = true) : (s.putBytes a (valueBytes v n)).memRead a n = .ok v := by
  have hread : (s.putBytes a (valueBytes v n)).canRead a n = true := canRead_of_canWrite (s := s) hw
  have hmap := map_read_putBytes s a (valueBytes v n) (by simpa using hn)
  rw [valueBytes_length] at hmap
  rcases memRead_cases (s.putBytes a (valueBytes v n)) a n with ⟨-, e⟩ | ⟨hfalse, -⟩
  · exact e.trans (congrArg Except.ok ((congrArg (fun bs => BitVec.ofNat (8 * n) (bytesValue bs)) hmap).trans
      (ofNat_bytesValue_valueBytes v)))
  · cases hread.symm.trans hfalse

/-- Settles O23: the bytes put into memory are those of the value, so reading them gives it back. -/
theorem storedValueReadsBack : Obligations.StoredValueReadsBack := by
  intro s t a n v hn hwrite
  have hn8 : n ≤ 8 := by
    simp only [List.mem_cons, List.not_mem_nil, or_false] at hn
    omega
  rcases memWrite_cases s a n v with ⟨hw, e⟩ | ⟨-, e⟩
  case inr => cases e.symm.trans hwrite
  cases e.symm.trans hwrite
  refine ⟨fun i hi => read_putBytes_valueBytes s a v (le_two_pow_xlen hn8) hi, fun x hx => ?_, ?_⟩
  · refine read_putBytes_other s a _ fun hin => ?_
    obtain ⟨i, hi, rfl⟩ := (mem_block a _ x).mp hin
    exact hx i (by simpa using hi) rfl
  · refine Eq.trans ?_ (memRead_putBytes_valueBytes v (le_two_pow_xlen hn8) hw)
    congr 1
    exact BitVec.setWidth_eq a

/-! ## Blocks that meet -/

theorem add_mod_two_pow_eq_iff {w : Nat} (a d : BitVec w) (i j : Nat) :
    (a.toNat + i) % 2 ^ w = (d.toNat + j) % 2 ^ w ↔ a + BitVec.ofNat w i = d + BitVec.ofNat w j := by
  simp [← BitVec.toNat_inj]

/-- Two blocks that share an address begin no further apart than the offsets at which they meet. -/
theorem sub_toNat_lt_of_shared {w : Nat} {a d : BitVec w} {i j n : Nat} (hi : i < n) (hji : j ≤ i)
    (h : (a.toNat + i) % 2 ^ w = (d.toNat + j) % 2 ^ w) : (d - a).toNat < n := by
  have hdiff : d - a = BitVec.ofNat w (i - j) := by
    have heq := (add_mod_two_pow_eq_iff a d i j).mp h
    rw [← Nat.sub_add_cancel hji, BitVec.ofNat_add, ← BitVec.add_assoc, BitVec.add_left_inj] at heq
    rw [← heq, BitVec.add_comm, BitVec.add_sub_cancel]
  rw [hdiff, BitVec.toNat_ofNat]
  exact (Nat.mod_le _ _).trans_lt (by omega)

theorem add_sub_toNat_mod {w : Nat} (a d : BitVec w) : (a.toNat + (d - a).toNat) % 2 ^ w = (d.toNat + 0) % 2 ^ w := by
  rw [add_mod_two_pow_eq_iff, BitVec.ofNat_toNat, BitVec.setWidth_eq, BitVec.add_comm, BitVec.sub_add_cancel]
  simp

/-- Settles O24: blocks that meet do so at the first address of one of them. -/
theorem blocksMeetMeansSharedAddress : Obligations.BlocksMeetMeansSharedAddress := by
  intro w a d n _
  rw [blocksMeet, Bool.or_eq_true, decide_eq_true_eq, decide_eq_true_eq]
  constructor
  · rintro (h | h)
    · exact ⟨_, 0, h, by omega, add_sub_toNat_mod a d⟩
    · exact ⟨0, _, by omega, h, (add_sub_toNat_mod d a).symm⟩
  · rintro ⟨i, j, hi, hj, h⟩
    rcases Nat.le_total j i with hji | hij
    · exact .inl (sub_toNat_lt_of_shared hi hji h)
    · exact .inr (sub_toNat_lt_of_shared hj hij h.symm)

/-! ## `memcpy` and `memset` (49_special.md rules R262, R263) -/

theorem blocksMeet_iff_wrap (s : State) (r1 r2 : Reg) {n : Nat} (hn : n < 2 ^ s.xlen) :
    blocksMeet (s.reg r1) (s.reg r2) n = true ↔
      ∃ i j, i < n ∧ j < n ∧ s.wrap (s.uval r1) i = s.wrap (s.uval r2) j :=
  blocksMeetMeansSharedAddress s.xlen (s.reg r1) (s.reg r2) n hn

theorem uval_lt (s : State) (r : Reg) : s.uval r < 2 ^ s.xlen := (s.reg r).isLt

/-- A block operation that fills the destination with as many bytes as `x[A2]` says. -/
theorem read_putBytes_uval (s : State) (r : Reg) {bs : List Byte} (hlen : bs.length = s.uval .a2) {i : Nat}
    (hi : i < bs.length) : (s.putBytes (s.reg r) bs).mem.read (s.wrap (s.uval r) i) = bs[i] :=
  read_putBytes_at s (s.reg r) bs (hlen ▸ (uval_lt s .a2).le) hi

/-- Settles O57: blocks that coincide or share no address are not those that leave free bytes, so the bytes put at the
destination are those read at the source. -/
theorem memcpyCopies : Obligations.MemcpyCopies := by
  rintro s src dest _ rfl hread hwrite hapart
  have hr := (canRead_iff s (s.reg src) _).mpr hread
  have hw := (canWrite_iff s (s.reg dest) _).mpr hwrite
  have hcopies : ¬ (s.reg src ≠ s.reg dest ∧ blocksMeet (s.reg src) (s.reg dest) (s.uval .a2) = true) := by
    rintro ⟨hne, hmeet⟩
    obtain ⟨i, j, hi, hj, hshared⟩ := (blocksMeet_iff_wrap s src dest (uval_lt s .a2)).mp hmeet
    rcases hapart with heq | hdisjoint
    · exact hne (eq_of_uval_eq heq)
    · exact hdisjoint i j hi hj hshared
  rcases execMemcpy_cases src dest s with ⟨-, -, hfree, -⟩ | ⟨-, -, -, e⟩ | ⟨hbad, -⟩
  · exact absurd hfree hcopies
  · have hlen : ((block (s.reg src) (s.uval .a2)).map s.mem.read).length = s.uval .a2 := by simp
    refine ⟨_, e, keepsRegs_putBytes .regReg s (s.reg dest) hlen 0, rfl, fun i hi => ?_⟩
    refine (read_putBytes_uval s dest hlen (hlen.symm ▸ hi)).trans ?_
    rw [List.getElem_map, block_getElem]
    rfl
  · exact absurd ⟨hr, hw⟩ hbad

/-- Settles O58: the free bytes are put at the destination, and putting bytes there keeps the rest. -/
theorem memcpyOfOverlappingBlocks : Obligations.MemcpyOfOverlappingBlocks := by
  rintro s src dest _ rfl hread hwrite hne hshared
  have hr := (canRead_iff s (s.reg src) _).mpr hread
  have hw := (canWrite_iff s (s.reg dest) _).mpr hwrite
  have hmeet := (blocksMeet_iff_wrap s src dest (uval_lt s .a2)).mpr hshared
  rcases execMemcpy_cases src dest s with ⟨-, -, -, e⟩ | ⟨-, -, hcopies, -⟩ | ⟨hbad, -⟩
  · exact ⟨_, e, keepsRegs_putBytes .regReg s (s.reg dest) (freeBytes_length s _) _⟩
  · exact absurd ⟨fun heq => hne (congrArg BitVec.toNat heq), hmeet⟩ hcopies
  · exact absurd ⟨hr, hw⟩ hbad

/-- Settles O59: the bytes put at the destination are copies of one byte. -/
theorem memsetFills : Obligations.MemsetFills := by
  rintro s _ rfl hwrite
  have hw := (canWrite_iff s (s.reg .a0) _).mpr hwrite
  rcases execMemset_cases s with ⟨-, e⟩ | ⟨hbad, -⟩
  · have hlen : (List.replicate (s.uval .a2) ((s.reg .a1).setWidth 8)).length = s.uval .a2 := by simp
    refine ⟨_, e, keepsRegs_putBytes .argless s (s.reg .a0) hlen 0, rfl, fun i hi => ?_⟩
    refine (congrArg BitVec.toNat (read_putBytes_uval s .a0 hlen (hlen.symm ▸ hi))).trans ?_
    rw [List.getElem_replicate, BitVec.toNat_setWidth]
    rfl
  · cases hw.symm.trans hbad

/-- Settles O60: one bad address fails the check of its block, and both checks come before the first byte. -/
theorem blockTrapsWriteNothing : Obligations.BlockTrapsWriteNothing := by
  intro s src dest
  constructor
  · rintro ⟨i, hi, hbad⟩
    have hnot : ¬ (s.canRead (s.reg src) (s.reg .a2).toNat = true ∧
        s.canWrite (s.reg dest) (s.reg .a2).toNat = true) := by
      rw [canRead_iff, canWrite_iff]
      rintro ⟨hr, hw⟩
      rcases hbad with hnone | hnot
      · exact hr i hi hnone
      · exact hnot (hw i hi)
    rcases execMemcpy_cases src dest s with ⟨hr, hw, -⟩ | ⟨hr, hw, -⟩ | ⟨-, e⟩
    · exact absurd ⟨hr, hw⟩ hnot
    · exact absurd ⟨hr, hw⟩ hnot
    · exact e
  · intro hbad
    rcases execMemset_cases s with ⟨hw, -⟩ | ⟨-, e⟩
    · cases hw.symm.trans (canWrite_eq_false hbad)
    · exact e

end Sys2Proof.Machine
end

section
/-! PROOFS. Load-immediates, loads and stores (41_load_store.md): one lemma per shared operation and outcome, for every number
of bytes, of which the instructions are the cases of 1, 2, 4 and 8 bytes. -/

namespace Sys2Proof.Machine

/-! ## Writing a register, as a number -/

/-- An instruction that writes one register completes, and what it wrote is read back. -/
theorem writeReg_uval {f : Format} {s : State} {dest : Reg} {v : BitVec s.xlen} {n : Nat} (h : v.toNat = n) :
    ∃ t, writeReg f dest s v = .next t ∧ KeepsRest s t dest (formatLength f) ∧ t.uval dest = n :=
  ⟨_, rfl, keepsRest_writeReg f s dest v, (uval_writeReg_self f s dest v).trans h⟩

theorem writeReg_sval {f : Format} {s : State} {dest : Reg} {v : BitVec s.xlen} {n : Int} (h : v.toInt = n) :
    ∃ t, writeReg f dest s v = .next t ∧ KeepsRest s t dest (formatLength f) ∧ t.sval dest = n :=
  ⟨_, rfl, keepsRest_writeReg f s dest v, (sval_writeReg_self f s dest v).trans h⟩

theorem xlen_of_x64 {s : State} (h : s.params.mode = .x64) : s.xlen = 64 := by
  rw [State.xlen, h]
  rfl

/-- In 64-bit mode a 64-bit form does what it does behind the check of the mode. -/
theorem in64_next {s : State} {k : Result} {P : State → Prop} (hmode : s.params.mode = .x64)
    (h : ∃ t, k = .next t ∧ P t) : ∃ t, in64 s k = .next t ∧ P t := by
  rwa [in64_x64 hmode]

/-! ## Load-immediates (rules R120 to R125) -/

theorem le_xlen_of_le_32 (s : State) {n : Nat} (h : n ≤ 32) : n ≤ s.xlen := by
  rcases xlen_eq s with hx | hx <;> omega

/-- Settles O29: each form writes one register with low bits of the immediate, which fit at `XLEN` bits. -/
theorem loadImmediates : Obligations.LoadImmediates := by
  intro s reg imm imm64
  have hlow {n : Nat} (hn : n ≤ 32) : ((imm.setWidth n).setWidth s.xlen).toNat = imm.toNat % 2 ^ n := by
    rw [BitVec.toNat_setWidth_of_le (le_xlen_of_le_32 s hn), BitVec.toNat_setWidth]
  refine ⟨writeReg_uval (hlow (by decide)), writeReg_uval (hlow (by decide)),
    writeReg_uval (BitVec.toNat_setWidth_of_le (le_xlen_of_le_32 s le_rfl)), writeReg_sval (simm_toInt s imm),
    fun hmode => in64_next hmode (writeReg_uval (BitVec.toNat_setWidth_of_le (xlen_of_x64 hmode).ge))⟩

/-! ## Addresses (rule R126) -/

/-- Settles O30: both sums are taken modulo `2^XLEN`, and sign extension keeps the displacement's value. -/
theorem effectiveAddressWraps : Obligations.EffectiveAddressWraps := by
  intro s base offset
  rw [State.effAddr, BitVec.toNat_add, Int.natCast_emod, Nat.cast_add, simm_toNat, State.simmU,
    Int.toNat_of_nonneg (Int.emod_nonneg _ (by positivity))]
  simp [State.uval]

/-! ## Loads -/

/-- The value of the bytes read at an address is their sum at their places. -/
theorem bytesValue_block {s : State} {a : BitVec s.xlen} {m : Nat → Nat} {n v : Nat}
    (hm : ∀ i, m i = (s.mem.read (s.wrap a.toNat i)).toNat) (hv : ∑ i ∈ Finset.range n, 2 ^ (8 * i) * m i = v) :
    bytesValue ((block a n).map s.mem.read) = v := by
  rw [block_map, bytesValue_map_range fun i => s.mem.read ((a.toNat + i) % 2 ^ s.xlen), ← hv]
  exact Finset.sum_congr rfl fun i _ => by rw [hm i, State.wrap]

theorem bytesValue_block_lt (s : State) (a : BitVec s.xlen) (n : Nat) :
    bytesValue ((block a n).map s.mem.read) < 2 ^ (8 * n) := by
  simpa using bytesValue_lt ((block a n).map s.mem.read)

theorem loadZero_next {s : State} {n v : Nat} {dest base : Reg} {offset : Imm32} (hn : 8 * n ≤ s.xlen)
    (hv : bytesValue ((block (s.effAddr base offset) n).map s.mem.read) = v)
    (hread : ∀ i < n, accessAt s.params (s.wrap (s.effAddr base offset).toNat i) ≠ .none) :
    ∃ t, loadZero n dest base offset s = .next t ∧ KeepsRest s t dest 6 ∧ t.uval dest = v := by
  rcases loadZero_cases n dest base offset s with ⟨-, e⟩ | ⟨hbad, -⟩
  · rw [e]
    refine writeReg_uval (f := .regRegImm) ?_
    rw [BitVec.toNat_setWidth_of_le hn, BitVec.toNat_ofNat, Nat.mod_eq_of_lt (bytesValue_block_lt s _ n), hv]
  · cases ((canRead_iff s _ n).mpr hread).symm.trans hbad

theorem loadSign_next {s : State} {n v : Nat} {dest base : Reg} {offset : Imm32} (hn : 8 * n ≤ s.xlen)
    (hv : bytesValue ((block (s.effAddr base offset) n).map s.mem.read) = v)
    (hread : ∀ i < n, accessAt s.params (s.wrap (s.effAddr base offset).toNat i) ≠ .none) :
    ∃ t, loadSign n dest base offset s = .next t ∧ KeepsRest s t dest 6 ∧ t.sval dest = signedOf (8 * n) v := by
  rcases loadSign_cases n dest base offset s with ⟨-, e⟩ | ⟨hbad, -⟩
  · rw [e]
    refine writeReg_sval (f := .regRegImm) ?_
    rw [BitVec.toInt_signExtend_of_le hn, toInt_eq_signedOf, BitVec.toNat_ofNat,
      Nat.mod_eq_of_lt (bytesValue_block_lt s _ n), hv]
  · cases ((canRead_iff s _ n).mpr hread).symm.trans hbad

theorem loadZero_trap {s : State} {n : Nat} {dest base : Reg} {offset : Imm32}
    (hbad : ∃ i < n, accessAt s.params (s.wrap (s.effAddr base offset).toNat i) = .none) :
    loadZero n dest base offset s = .next (s.trap .memoryAccess) := by
  rcases loadZero_cases n dest base offset s with ⟨hread, -⟩ | ⟨-, e⟩
  · cases hread.symm.trans (canRead_eq_false hbad)
  · exact e

theorem loadSign_trap {s : State} {n : Nat} {dest base : Reg} {offset : Imm32}
    (hbad : ∃ i < n, accessAt s.params (s.wrap (s.effAddr base offset).toNat i) = .none) :
    loadSign n dest base offset s = .next (s.trap .memoryAccess) := by
  rcases loadSign_cases n dest base offset s with ⟨hread, -⟩ | ⟨-, e⟩
  · cases hread.symm.trans (canRead_eq_false hbad)
  · exact e

/-- Settles O31: `loadZero` at 1, 2, 4 and 8 bytes, with the sum of the bytes at their places written out. -/
theorem zeroExtendingLoads : Obligations.ZeroExtendingLoads := by
  rintro s dest base offset _ m rfl hm
  have h32 {n : Nat} (hn : 8 * n ≤ 32) : 8 * n ≤ s.xlen := le_xlen_of_le_32 s hn
  refine ⟨fun h => ?_, fun h => ?_, fun h => ?_, fun hmode h => ?_⟩
  · exact loadZero_next (h32 (by decide)) (bytesValue_block hm (by simp)) h
  · exact loadZero_next (h32 (by decide)) (bytesValue_block hm (by simp [Finset.sum_range_succ])) h
  · exact loadZero_next (h32 (by decide)) (bytesValue_block hm (by simp [Finset.sum_range_succ])) h
  · exact in64_next hmode
      (loadZero_next (xlen_of_x64 hmode).ge (bytesValue_block hm (by simp [Finset.sum_range_succ])) h)

/-- Settles O32: `loadSign` at 1, 2 and 4 bytes. -/
theorem signExtendingLoads : Obligations.SignExtendingLoads := by
  rintro s dest base offset _ m rfl hm
  have h32 {n : Nat} (hn : 8 * n ≤ 32) : 8 * n ≤ s.xlen := le_xlen_of_le_32 s hn
  refine ⟨fun h => ?_, fun h => ?_, fun h => ?_⟩
  · exact loadSign_next (h32 (by decide)) (bytesValue_block hm (by simp)) h
  · exact loadSign_next (h32 (by decide)) (bytesValue_block hm (by simp [Finset.sum_range_succ])) h
  · exact loadSign_next (h32 (by decide)) (bytesValue_block hm (by simp [Finset.sum_range_succ])) h

/-! ## Stores -/

/-- A store of the low `n` bytes of a value completes where every byte is writable. -/
theorem putBytes_valueBytes_next (f : Format) (s : State) (a : BitVec s.xlen) {w n : Nat} (v : BitVec w) (hn : n ≤ 8) :
    KeepsRegs s ((s.putBytes a (valueBytes v n)).advance f) (block a n) (formatLength f) ∧
      ((s.putBytes a (valueBytes v n)).advance f).freeCount = s.freeCount ∧
      ∀ j < n, (((s.putBytes a (valueBytes v n)).advance f).mem.read (s.wrap a.toNat j)).toNat =
        v.toNat / 2 ^ (8 * j) % 256 :=
  ⟨keepsRegs_putBytes f s a (valueBytes_length v n) 0, rfl,
    fun _ => read_putBytes_valueBytes s a v (le_two_pow_xlen hn)⟩

/-- A byte of the low bits is a byte of the whole. -/
theorem mod_div_mod_256 (x : Int) {j n : Nat} (hj : j < n) :
    x % 2 ^ (8 * n) / 2 ^ (8 * j) % 256 = x / 2 ^ (8 * j) % 256 := by
  have hpow : (2 : Int) ^ (8 * n) = 2 ^ (8 * j) * (256 * 2 ^ (8 * (n - j - 1))) := by
    rw [show (256 : Int) = 2 ^ 8 by norm_num, ← pow_add, ← pow_add]
    congr 1
    omega
  conv_rhs => rw [← Int.emod_add_mul_ediv x (2 ^ (8 * n))]
  generalize x % 2 ^ (8 * n) = r
  rw [hpow, mul_assoc, Int.add_mul_ediv_left _ _ (by positivity), mul_assoc, Int.add_mul_emod_self_left]

theorem storeReg_next {s : State} {n : Nat} {src base : Reg} {offset : Imm32} (hn : n ≤ 8)
    (hwrite : ∀ j < n, accessAt s.params (s.wrap (s.effAddr base offset).toNat j) = .rw) :
    ∃ t, storeReg n src base offset s = .next t ∧ KeepsRegs s t (block (s.effAddr base offset) n) 6 ∧
      t.freeCount = s.freeCount ∧
      ∀ j < n, (t.mem.read (s.wrap (s.effAddr base offset).toNat j)).toNat = s.uval src / 2 ^ (8 * j) % 256 := by
  rcases storeReg_cases n src base offset s with ⟨-, e⟩ | ⟨hbad, -⟩
  · obtain ⟨hkeeps, hfree, hbytes⟩ := putBytes_valueBytes_next .regRegImm s (s.effAddr base offset)
      (s.low (8 * n) src) hn
    refine ⟨_, e, hkeeps, hfree, fun j hj => ?_⟩
    rw [hbytes j hj, low_toNat, State.lowU]
    exact_mod_cast mod_div_mod_256 (s.uval src) hj
  · cases ((canWrite_iff s _ n).mpr hwrite).symm.trans hbad

theorem storeConst_next {s : State} {n : Nat} {imm : Imm32} {v : BitVec (8 * n)} (hn : n ≤ 8)
    (hv : v = imm.signExtend (8 * n))
    (hwrite : ∀ j < n, accessAt s.params (s.wrap (s.storeImmAddress imm).toNat j) = .rw) :
    ∃ t, storeConst n imm v s = .next t ∧ KeepsRegs s t (block (s.storeImmAddress imm) n) 5 ∧
      t.freeCount = s.freeCount ∧
      ∀ j < n, ((t.mem.read (s.wrap (s.storeImmAddress imm).toNat j)).toNat : Int) =
        imm.toInt / 2 ^ (8 * j) % 256 := by
  rcases storeConst_cases n imm v s with ⟨-, e⟩ | ⟨hbad, -⟩
  · obtain ⟨hkeeps, hfree, hbytes⟩ := putBytes_valueBytes_next .imm s (s.storeImmAddress imm) v hn
    refine ⟨_, e, hkeeps, hfree, fun j hj => ?_⟩
    have hvalue : (v.toNat : Int) = imm.toInt % 2 ^ (8 * n) := by
      rw [hv, BitVec.signExtend, BitVec.toNat_ofInt, Int.toNat_of_nonneg (Int.emod_nonneg _ (by positivity))]
      norm_cast
    rw [hbytes j hj, ← mod_div_mod_256 imm.toInt hj, ← hvalue]
    norm_cast
  · cases ((canWrite_iff s _ n).mpr hwrite).symm.trans hbad

theorem storeReg_trap {s : State} {n : Nat} {src base : Reg} {offset : Imm32}
    (hbad : ∃ j < n, accessAt s.params (s.wrap (s.effAddr base offset).toNat j) ≠ .rw) :
    storeReg n src base offset s = .next (s.trap .memoryAccess) := by
  rcases storeReg_cases n src base offset s with ⟨hwrite, -⟩ | ⟨-, e⟩
  · cases hwrite.symm.trans (canWrite_eq_false hbad)
  · exact e

theorem storeConst_trap {s : State} {n : Nat} {imm : Imm32} {v : BitVec (8 * n)}
    (hbad : ∃ j < n, accessAt s.params (s.wrap (s.storeImmAddress imm).toNat j) ≠ .rw) :
    storeConst n imm v s = .next (s.trap .memoryAccess) := by
  rcases storeConst_cases n imm v s with ⟨hwrite, -⟩ | ⟨-, e⟩
  · cases hwrite.symm.trans (canWrite_eq_false hbad)
  · exact e

/-- Settles O33: `storeReg` at 1, 2, 4 and 8 bytes. -/
theorem stores : Obligations.Stores := by
  rintro s src base offset n i (⟨rfl, rfl⟩ | ⟨rfl, rfl⟩ | ⟨rfl, rfl⟩ | ⟨rfl, rfl, hmode⟩) hwrite
  · exact storeReg_next (by decide) hwrite
  · exact storeReg_next (by decide) hwrite
  · exact storeReg_next (by decide) hwrite
  · exact in64_next hmode (storeReg_next le_rfl hwrite)

theorem storeImmAddress_a0 {s : State} (h : s.params.storeImmAddr = .a0) (imm : Imm32) :
    s.storeImmAddress imm = s.reg .a0 := by
  simp [State.storeImmAddress, h]

/-- Settles O34: `storeConst` at 1, 2, 4 and 8 bytes, of which each form stores those of the sign-extended immediate. -/
theorem storeImmediates : Obligations.StoreImmediates := by
  intro s imm n i hi hwrite
  refine ⟨fun ha0 => congrArg BitVec.toNat (storeImmAddress_a0 ha0 imm), ?_⟩
  rcases hi with ⟨rfl, rfl⟩ | ⟨rfl, rfl⟩ | ⟨rfl, rfl⟩ | ⟨rfl, rfl, hmode⟩
  · exact storeConst_next (by decide) (BitVec.signExtend_eq_setWidth_of_le imm (by decide)).symm hwrite
  · exact storeConst_next (by decide) (BitVec.signExtend_eq_setWidth_of_le imm (by decide)).symm hwrite
  · exact storeConst_next (by decide) (BitVec.signExtend_eq imm).symm hwrite
  · exact in64_next hmode (storeConst_next le_rfl rfl hwrite)

/-- Settles O35: one bad byte fails the check of its block; the 64-bit forms check the mode first. -/
theorem badAccessesTrap : Obligations.BadAccessesTrap := by
  intro s r base offset n i hmode
  refine ⟨fun hi hbad => ?_, fun hi hbad => ?_, fun hi hbad => ?_⟩
  · simp only [List.mem_cons, List.not_mem_nil, or_false] at hi
    rcases hi with ⟨rfl, rfl | rfl⟩ | ⟨rfl, rfl | rfl⟩ | ⟨rfl, rfl | rfl⟩ | ⟨rfl, rfl⟩
    · exact loadZero_trap hbad
    · exact loadSign_trap hbad
    · exact loadZero_trap hbad
    · exact loadSign_trap hbad
    · exact loadZero_trap hbad
    · exact loadSign_trap hbad
    · exact (in64_x64 (hmode rfl) _).trans (loadZero_trap hbad)
  · rcases hi with ⟨rfl, rfl⟩ | ⟨rfl, rfl⟩ | ⟨rfl, rfl⟩ | ⟨rfl, rfl⟩
    · exact storeReg_trap hbad
    · exact storeReg_trap hbad
    · exact storeReg_trap hbad
    · exact (in64_x64 (hmode rfl) _).trans (storeReg_trap hbad)
  · rcases hi with ⟨rfl, rfl⟩ | ⟨rfl, rfl⟩ | ⟨rfl, rfl⟩ | ⟨rfl, rfl⟩
    · exact storeConst_trap hbad
    · exact storeConst_trap hbad
    · exact storeConst_trap hbad
    · exact (in64_x64 (hmode rfl) _).trans (storeConst_trap hbad)

end Sys2Proof.Machine
end

section
/-! PROOFS. Arithmetic (42_arithmetic.md): the operand views and the widened result as numbers, and the additions,
subtractions and multiplications. -/

namespace Sys2Proof.Machine

/-! ## The operand views and `res_W` as numbers (rule R150) -/

theorem toNat_ofInt_cast (w : Nat) (z : Int) : ((BitVec.ofInt w z).toNat : Int) = z % 2 ^ w := by
  rw [BitVec.toNat_ofInt, Int.toNat_of_nonneg (Int.emod_nonneg _ (by positivity))]
  norm_cast

/-- `res_W` widens a result of at most `XLEN` bits as `ext32` says. -/
theorem res_toNat (s : State) {W : Nat} (hW : W ≤ s.xlen) (v : BitVec W) :
    (s.res v).toNat = s.widened W v.toNat := by
  have hzext : (v.setWidth s.xlen).toNat = v.toNat := BitVec.toNat_setWidth_of_le hW
  unfold State.res State.widened
  cases s.params.ext32 with
  | zext => simp [hzext]
  | sext =>
    simp only [BitVec.toNat_signExtend, hzext, BitVec.msb_eq_decide, decide_eq_true_eq]
    rcases hW.lt_or_eq with hlt | heq
    · by_cases hsign : 2 ^ (W - 1) ≤ v.toNat <;> simp [hlt, hsign]
    · simp [← heq]

theorem res32_toNat (s : State) (v : BitVec 32) : (s.res v).toNat = s.widened 32 v.toNat :=
  res_toNat s (le_xlen_of_le_32 s le_rfl) v

theorem sval_eq (s : State) (r : Reg) : s.sval r = signedOf s.xlen (s.uval r) :=
  toInt_eq_signedOf _

section
variable {s : State} (hmode : s.params.mode = .x64)
include hmode

theorem res64_toNat (v : BitVec 64) : (s.res v).toNat = v.toNat := by
  rw [res_toNat s (xlen_of_x64 hmode).ge, State.widened, xlen_of_x64 hmode]
  simp

theorem res64_toInt (v : BitVec 64) : (s.res v).toInt = v.toInt := by
  rw [toInt_eq_signedOf, toInt_eq_signedOf, res64_toNat hmode, xlen_of_x64 hmode]

theorem lowU_64 (r : Reg) : s.lowU 64 r = s.uval r :=
  Nat.mod_eq_of_lt (xlen_of_x64 hmode ▸ uval_lt s r)

theorem lowS_64 (r : Reg) : s.lowS 64 r = s.sval r := by
  rw [State.lowS, lowU_64 hmode, sval_eq, xlen_of_x64 hmode]

end

/-- A result of 32 bits is written widened. -/
theorem writeRes32 (f : Format) (s : State) (dest : Reg) {v : BitVec 32} {n : Nat} (h : v.toNat = n) :
    ∃ t, writeReg f dest s (s.res v) = .next t ∧ KeepsRest s t dest (formatLength f) ∧
      t.uval dest = s.widened 32 n :=
  writeReg_uval (h ▸ res32_toNat s v)

/-- A result of 64 bits is written as it is, behind the check of the mode. -/
theorem writeRes64 (f : Format) {s : State} (hmode : s.params.mode = .x64) (dest : Reg) {v : BitVec 64} {n : Nat}
    (h : v.toNat = n) :
    ∃ t, in64 s (writeReg f dest s (s.res v)) = .next t ∧ KeepsRest s t dest (formatLength f) ∧ t.uval dest = n :=
  in64_next hmode (writeReg_uval (h ▸ res64_toNat hmode v))

/-- The same of its signed reading. -/
theorem writeRes64_signed (f : Format) {s : State} (hmode : s.params.mode = .x64) (dest : Reg) {v : BitVec 64}
    {z : Int} (h : v.toInt = z) :
    ∃ t, in64 s (writeReg f dest s (s.res v)) = .next t ∧ KeepsRest s t dest (formatLength f) ∧ t.sval dest = z :=
  in64_next hmode (writeReg_sval (h ▸ res64_toInt hmode v))

/-! ## Add, subtract, multiply (rules R151 to R156) -/

theorem immAt_32 (imm : Imm32) : immAt 32 imm = imm := BitVec.signExtend_eq imm

/-- Settles O36: the operations of bit vectors of 32 bits, read as numbers. -/
theorem addSubMul32 : Obligations.AddSubMul32 := by
  intro s dest src imm
  refine ⟨writeRes32 .regRegImm s dest ?_, writeRes32 .regRegImm s dest ?_, writeRes32 .regRegImm s dest ?_⟩ <;>
    rw [immAt_32]
  · rw [BitVec.toNat_add, low_toNat]
  · have himm := imm.isLt
    rw [BitVec.toNat_sub, low_toNat]
    congr 1
    omega
  · rw [BitVec.toNat_mul, low_toNat]

/-- A result of 64 bits that stands for an integer is written modulo `2^64`. -/
theorem writeRes64_ofInt (f : Format) {s : State} (hmode : s.params.mode = .x64) (dest : Reg) {v : BitVec 64} {z : Int}
    (h : v = BitVec.ofInt 64 z) :
    ∃ t, in64 s (writeReg f dest s (s.res v)) = .next t ∧ KeepsRest s t dest (formatLength f) ∧
      (t.uval dest : Int) = z % 2 ^ 64 := by
  obtain ⟨t, hnext, hkeeps, hval⟩ := writeRes64 f hmode dest (v := v) rfl
  exact ⟨t, hnext, hkeeps, by rw [hval, h, toNat_ofInt_cast]⟩

theorem low64_eq_ofInt {s : State} (hmode : s.params.mode = .x64) (r : Reg) :
    s.low 64 r = BitVec.ofInt 64 (s.uval r) := by
  rw [BitVec.ofInt_natCast, ← lowU_64 hmode, ← low_toNat, BitVec.ofNat_toNat, BitVec.setWidth_eq]

/-- Settles O37: reducing integers modulo `2^64` commutes with the three operations. -/
theorem addSubMul64 : Obligations.AddSubMul64 := by
  intro s dest src imm hmode
  have himm : immAt 64 imm = BitVec.ofInt 64 imm.toInt := rfl
  refine ⟨writeRes64_ofInt .regRegImm hmode dest ?_, writeRes64_ofInt .regRegImm hmode dest ?_,
    writeRes64_ofInt .regRegImm hmode dest ?_⟩ <;> rw [himm, low64_eq_ofInt hmode]
  · rw [BitVec.ofInt_add]
  · simp only [Int.sub_eq_add_neg, BitVec.ofInt_add, BitVec.ofInt_neg, BitVec.sub_eq_add_neg]
  · rw [BitVec.ofInt_mul]

/-! ## Multiply upper (rules R157 to R159) -/

theorem highHalf_toNat (n : Nat) (P : Int) : ((highHalf n P).toNat : Int) = P / 2 ^ n % 2 ^ n := by
  rw [highHalf, toNat_ofInt_cast, Int.fdiv_eq_ediv_of_nonneg _ (by positivity)]

/-- The high half of a product of two values of `n` bits fits. -/
theorem highHalf_unsigned_toNat {n a b : Nat} (ha : a < 2 ^ n) (hb : b < 2 ^ n) :
    (highHalf n (a * b)).toNat = a * b / 2 ^ n := by
  have hlt : a * b / 2 ^ n < 2 ^ n := Nat.div_lt_of_lt_mul (Nat.mul_lt_mul'' ha hb)
  have h := highHalf_toNat n (a * b)
  norm_cast at h
  rwa [Nat.mod_eq_of_lt hlt] at h

/-- Settles O38: the division of the exact product, rounded down and reduced; the unsigned one needs no reduction. -/
theorem multiplyUpper : Obligations.MultiplyUpper := by
  intro s dest src
  have hsigned (P : Int) : ∃ t, writeReg .regReg dest s (highHalf s.xlen P) = .next t ∧ KeepsRest s t dest 2 ∧
      (t.uval dest : Int) = P / 2 ^ s.xlen % 2 ^ s.xlen := by
    obtain ⟨t, hnext, hkeeps, hval⟩ := writeReg_uval (f := .regReg) (dest := dest) (v := highHalf s.xlen P) rfl
    exact ⟨t, hnext, hkeeps, hval ▸ highHalf_toNat s.xlen P⟩
  exact ⟨hsigned _, writeReg_uval (f := .regReg) (highHalf_unsigned_toNat (uval_lt s dest) (uval_lt s src)), hsigned _⟩

/-! ## Division and remainder (rules R160 to R169) -/

section
variable {W : Nat} {a b : BitVec W}

theorem divTrap_zero (signed : Bool) (hb : b.toNat = 0) : divTrap signed a b = some .divisionByZero := by
  have hzero : b = 0 := BitVec.eq_of_toNat_eq (by simpa using hb)
  simp [divTrap, hzero]

theorem divTrap_overflow (hW : 0 < W) (ha : a.toInt = -2 ^ (W - 1)) (hb : b.toInt = -1) :
    divTrap true a b = some .divisionOverflow := by
  have hmin : a = BitVec.intMin W := BitVec.eq_of_toInt_eq (by rw [ha, BitVec.toInt_intMin_of_pos hW])
  have hzero : ¬ b = 0#W := by
    rintro rfl
    simp at hb
  simp [divTrap, hmin, hb, hzero]

theorem divTrap_unsigned (hb : b.toNat ≠ 0) : divTrap false a b = none := by
  have hzero : ¬ b = 0#W := by
    rintro rfl
    simp at hb
  simp [divTrap, hzero]

theorem divTrap_signed (hW : 0 < W) (hb : b.toNat ≠ 0) (hover : ¬ (a.toInt = -2 ^ (W - 1) ∧ b.toInt = -1)) :
    divTrap true a b = none := by
  have hzero : ¬ b = 0#W := by
    rintro rfl
    simp at hb
  have hmin : ¬ (a = BitVec.intMin W ∧ b.toInt = -1) := by
    rintro ⟨rfl, hneg⟩
    exact hover ⟨BitVec.toInt_intMin_of_pos hW, hneg⟩
  simpa [divTrap, hzero] using hmin

theorem quotient_unsigned_toNat : (quotient false a b).toNat = a.toNat / b.toNat := by
  have hlt : a.toNat / b.toNat < 2 ^ W := (Nat.div_le_self _ _).trans_lt a.isLt
  simp [quotient, Nat.mod_eq_of_lt hlt]

theorem remainder_unsigned_toNat : (remainder false a b).toNat = a.toNat % b.toNat := by
  have hlt : a.toNat % b.toNat < 2 ^ W := (Nat.mod_le _ _).trans_lt a.isLt
  simp [remainder, Nat.mod_eq_of_lt hlt]

theorem quotient_signed_toNat : (quotient true a b).toNat = (a.toInt.tdiv b.toInt % 2 ^ W).toNat := by
  simp [quotient]

theorem remainder_signed_eq : remainder true a b = BitVec.ofInt W (a.toInt.tmod b.toInt) := by
  simp [remainder, Int.tmod_def]

theorem remainder_signed_toNat : (remainder true a b).toNat = (a.toInt.tmod b.toInt % 2 ^ W).toNat := by
  simp [remainder_signed_eq]

/-- A signed quotient that does not overflow is a value of `W` bits. -/
theorem quotient_signed_toInt (hW : 0 < W) (hover : ¬ (a.toInt = -2 ^ (W - 1) ∧ b.toInt = -1)) :
    (quotient true a b).toInt = a.toInt.tdiv b.toInt := by
  have hne : a ≠ BitVec.intMin W ∨ b ≠ -1#W := by
    by_contra! h
    obtain ⟨rfl, rfl⟩ := h
    refine hover ⟨BitVec.toInt_intMin_of_pos hW, ?_⟩
    rw [BitVec.neg_one_eq_allOnes, BitVec.toInt_allOnes, if_pos hW]
  have hdiv := BitVec.toInt_sdiv_of_ne_or_ne a b hne
  rw [quotient, if_pos rfl, ← hdiv, BitVec.ofInt_toInt]

theorem remainder_signed_toInt : (remainder true a b).toInt = a.toInt.tmod b.toInt := by
  rw [remainder_signed_eq, ← BitVec.toInt_srem, BitVec.ofInt_toInt]

/-- A division that does not trap has a divisor and does not overflow. -/
theorem divTrap_signed_eq_none (hW : 0 < W) (h : divTrap true a b = none) :
    b.toNat ≠ 0 ∧ ¬ (a.toInt = -2 ^ (W - 1) ∧ b.toInt = -1) := by
  constructor
  · intro hb
    cases (divTrap_zero true hb).symm.trans h
  · rintro ⟨ha, hb⟩
    cases (divTrap_overflow hW ha hb).symm.trans h

end

/-! ## The division and remainder instructions -/

section
variable {s : State} {W : Nat} {signed : Bool} {dest src : Reg} {r : TrapReason}

theorem divide_next (h : divTrap signed (s.low W dest) (s.low W src) = none) :
    divide W signed dest src s =
      writeReg .regReg dest s (s.res (quotient signed (s.low W dest) (s.low W src))) := by
  simp [divide, h]

theorem divide_trap (h : divTrap signed (s.low W dest) (s.low W src) = some r) :
    divide W signed dest src s = .next (s.trap r) := by
  simp [divide, h, raise]

theorem remain_next (h : divTrap signed (s.low W dest) (s.low W src) = none) :
    remain W signed dest src s =
      writeReg .regReg dest s (s.res (remainder signed (s.low W dest) (s.low W src))) := by
  simp [remain, h]

theorem remain_trap (hrem : s.params.remTrapsLikeDiv = true)
    (h : divTrap signed (s.low W dest) (s.low W src) = some r) :
    remain W signed dest src s = .next (s.trap r) := by
  simp [remain, h, hrem, raise]

theorem remain_refused (hrem : s.params.remTrapsLikeDiv = false)
    (h : divTrap signed (s.low W dest) (s.low W src) = some r) :
    remain W signed dest src s = .refused .remainderUnspecified := by
  simp [remain, h, hrem]

theorem low64_toNat (hmode : s.params.mode = .x64) (r : Reg) : (s.low 64 r).toNat = s.uval r := by
  rw [low_toNat, lowU_64 hmode]

theorem low64_toInt (hmode : s.params.mode = .x64) (r : Reg) : (s.low 64 r).toInt = s.sval r := by
  rw [low_toInt, lowS_64 hmode]

theorem next_of_eq {k l : Result} {P : State → Prop} (h : k = l) (hl : ∃ t, l = .next t ∧ P t) :
    ∃ t, k = .next t ∧ P t :=
  h ▸ hl

end

/-- Settles O39: outside the two trapping cases each division writes its quotient. -/
theorem divisions : Obligations.Divisions := by
  intro s dest src
  refine ⟨fun h0 => ?_, fun h0 hover => ?_, fun hmode h0 => ?_, fun hmode h0 hover => ?_⟩
  · rw [← low_toNat] at h0
    refine next_of_eq (divide_next (divTrap_unsigned h0)) (writeRes32 .regReg s dest ?_)
    rw [quotient_unsigned_toNat, low_toNat, low_toNat]
  · rw [← low_toNat] at h0
    rw [← low_toInt, ← low_toInt] at hover
    refine next_of_eq (divide_next (divTrap_signed (by decide) h0 hover)) (writeRes32 .regReg s dest ?_)
    rw [quotient_signed_toNat, low_toInt, low_toInt]
  · rw [← low64_toNat hmode] at h0
    refine next_of_eq (congrArg (in64 s) (divide_next (divTrap_unsigned h0))) (writeRes64 .regReg hmode dest ?_)
    rw [quotient_unsigned_toNat, low64_toNat hmode, low64_toNat hmode]
  · rw [← low64_toNat hmode] at h0
    rw [← low64_toInt hmode, ← low64_toInt hmode] at hover
    refine next_of_eq (congrArg (in64 s) (divide_next (divTrap_signed (by decide) h0 hover)))
      (writeRes64_signed .regReg hmode dest ?_)
    rw [quotient_signed_toInt (by decide) hover, low64_toInt hmode, low64_toInt hmode]

/-- Settles O40: under the conditions of O39 each remainder writes the one that goes with the quotient. -/
theorem remainders : Obligations.Remainders := by
  intro s dest src
  refine ⟨fun h0 => ?_, fun h0 hover => ?_, fun hmode h0 => ?_, fun hmode h0 hover => ?_⟩
  · rw [← low_toNat] at h0
    refine next_of_eq (remain_next (divTrap_unsigned h0)) (writeRes32 .regReg s dest ?_)
    rw [remainder_unsigned_toNat, low_toNat, low_toNat]
  · rw [← low_toNat] at h0
    rw [← low_toInt, ← low_toInt] at hover
    refine next_of_eq (remain_next (divTrap_signed (by decide) h0 hover)) (writeRes32 .regReg s dest ?_)
    rw [remainder_signed_toNat, low_toInt, low_toInt]
  · rw [← low64_toNat hmode] at h0
    refine next_of_eq (congrArg (in64 s) (remain_next (divTrap_unsigned h0))) (writeRes64 .regReg hmode dest ?_)
    rw [remainder_unsigned_toNat, low64_toNat hmode, low64_toNat hmode]
  · rw [← low64_toNat hmode] at h0
    rw [← low64_toInt hmode, ← low64_toInt hmode] at hover
    refine next_of_eq (congrArg (in64 s) (remain_next (divTrap_signed (by decide) h0 hover)))
      (writeRes64_signed .regReg hmode dest ?_)
    rw [remainder_signed_toInt, low64_toInt hmode, low64_toInt hmode]

/-- Settles O41: both traps are those of `divTrap`, which divisions take always and remainders as the parameter says. -/
theorem divisionTraps : Obligations.DivisionTraps := by
  rintro s dest src W i (rfl | ⟨rfl, hmode⟩)
  case inl =>
    refine ⟨fun h0 hi => ?_, fun ha hb hi => ?_⟩
    · rw [← low_toNat] at h0
      simp only [if_true, List.mem_cons, List.not_mem_nil, or_false] at hi
      rcases hi with (rfl | rfl) | ⟨hrem, rfl | rfl⟩
      · exact divide_trap (divTrap_zero false h0)
      · exact divide_trap (divTrap_zero true h0)
      · exact remain_trap hrem (divTrap_zero false h0)
      · exact remain_trap hrem (divTrap_zero true h0)
    · rw [← low_toInt] at ha hb
      have htrap := divTrap_overflow (by decide) ha hb
      rcases hi with rfl | ⟨hrem, rfl⟩
      · exact divide_trap htrap
      · exact remain_trap hrem htrap
  case inr =>
    refine ⟨fun h0 hi => ?_, fun ha hb hi => ?_⟩
    · rw [← low_toNat] at h0
      simp only [Nat.reduceEqDiff, if_false, List.mem_cons, List.not_mem_nil, or_false] at hi
      rcases hi with (rfl | rfl) | ⟨hrem, rfl | rfl⟩
      · exact (in64_x64 hmode _).trans (divide_trap (divTrap_zero false h0))
      · exact (in64_x64 hmode _).trans (divide_trap (divTrap_zero true h0))
      · exact (in64_x64 hmode _).trans (remain_trap hrem (divTrap_zero false h0))
      · exact (in64_x64 hmode _).trans (remain_trap hrem (divTrap_zero true h0))
    · rw [← low_toInt] at ha hb
      have htrap := divTrap_overflow (by decide) ha hb
      rcases hi with rfl | ⟨hrem, rfl⟩
      · exact (in64_x64 hmode _).trans (divide_trap htrap)
      · exact (in64_x64 hmode _).trans (remain_trap hrem htrap)

/-- Settles O42: in the cases of O41, with the parameter false. -/
theorem remaindersWithoutResultAreRefused : Obligations.RemaindersWithoutResultAreRefused := by
  intro s dest src hrem
  refine ⟨fun h0 => ?_, fun h => ?_, fun hmode h0 => ?_, fun hmode h => ?_⟩
  · rw [← low_toNat] at h0
    exact remain_refused hrem (divTrap_zero false h0)
  · rw [← low_toNat, ← low_toInt, ← low_toInt] at h
    rcases h with h0 | ⟨ha, hb⟩
    · exact remain_refused hrem (divTrap_zero true h0)
    · exact remain_refused hrem (divTrap_overflow (by decide) ha hb)
  · rw [← low64_toNat hmode] at h0
    exact (in64_x64 hmode _).trans (remain_refused hrem (divTrap_zero false h0))
  · rw [← low64_toNat hmode, ← low64_toInt hmode, ← low64_toInt hmode] at h
    rcases h with h0 | ⟨ha, hb⟩
    · exact (in64_x64 hmode _).trans (remain_refused hrem (divTrap_zero true h0))
    · exact (in64_x64 hmode _).trans (remain_refused hrem (divTrap_overflow (by decide) ha hb))

theorem sval_ne_zero {s : State} {r : Reg} (h : s.uval r ≠ 0) : s.sval r ≠ 0 := by
  intro hzero
  have hreg : s.reg r = 0#s.xlen := BitVec.eq_of_toInt_eq (by rw [BitVec.toInt_zero]; exact hzero)
  exact h (by rw [State.uval, hreg]; rfl)

/-- A signed division that leaves the machine `Running` did not trap. -/
theorem divTrap_eq_none_of_running {s q : State} {dest src : Reg} (hmode : s.params.mode = .x64)
    (hq : q.status = .running) (h : exec (.divSigned64 dest src) s = .next q) :
    divTrap true (s.low 64 dest) (s.low 64 src) = none := by
  cases htrap : divTrap true (s.low 64 dest) (s.low 64 src) with
  | none => rfl
  | some r =>
    have hexec : exec (.divSigned64 dest src) s = .next (s.trap r) :=
      (in64_x64 hmode _).trans (divide_trap htrap)
    cases hexec.symm.trans h
    cases hq

/-- Settles O43: where neither traps they write the truncated quotient and its remainder (O39, O40), which are the dividend
again together. -/
theorem quotientAndRemainderAgree : Obligations.QuotientAndRemainderAgree := by
  intro s q m dest src hmode _ hq _ hdiv hrem
  obtain ⟨hb, hover⟩ := divTrap_signed_eq_none (by decide) (divTrap_eq_none_of_running hmode hq hdiv)
  rw [low64_toNat hmode] at hb
  rw [low64_toInt hmode, low64_toInt hmode] at hover
  obtain ⟨-, -, -, hdivides⟩ := divisions s dest src
  obtain ⟨-, -, -, hremains⟩ := remainders s dest src
  obtain ⟨q', hq', -, hquot⟩ := hdivides hmode hb hover
  obtain ⟨m', hm', -, hmod⟩ := hremains hmode hb hover
  cases hq'.symm.trans hdiv
  cases hm'.symm.trans hrem
  rw [hquot, hmod]
  refine ⟨?_, ?_, fun hpos => ?_, fun hneg => ?_⟩
  · rw [Int.mul_comm, Int.mul_tdiv_add_tmod]
  · rw [Int.natAbs_tmod]
    exact Nat.mod_lt _ (Int.natAbs_pos.mpr (sval_ne_zero hb))
  · by_contra hle
    exact absurd (Int.tmod_nonneg (s.sval src) (a := -s.sval dest) (by omega)) (by rw [Int.neg_tmod]; omega)
  · by_contra hle
    exact absurd (Int.tmod_nonneg (s.sval src) (not_lt.mp hle)) (by omega)

end Sys2Proof.Machine
end

section
/-! PROOFS. Control flow (40_control_flow_and_branch.md): a target is valid exactly when it is an instruction start, and with
it the jump through the table and the six branches (rules R101, R105 to R112). -/

namespace Sys2Proof.Machine

theorem jumpTo_valid {s : State} {t : Int} (h : validTarget s.params t = true) :
    jumpTo t s = .next (s.setPc t.toNat) := by
  simp [jumpTo, h]

theorem jumpTo_invalid {s : State} {t : Int} (h : validTarget s.params t = false) :
    jumpTo t s = .next (s.trap .invalidTarget) := by
  simp [jumpTo, h, raise]

/-- A target is valid exactly when it is an instruction start as the linear decoding builds them (rule R101). -/
theorem validTarget_iff_starts (p : Params) (t : Int) :
    validTarget p t = true ↔ ∃ n : Nat, (n : Int) = t ∧ Starts p n := by
  simp only [validTarget, Bool.and_eq_true, decide_eq_true_eq, startsAreTheLinearSweep p t.toNat]
  constructor
  · rintro ⟨⟨h0, -⟩, hstart⟩
    exact ⟨t.toNat, Int.toNat_of_nonneg h0, hstart⟩
  · rintro ⟨n, rfl, hstart⟩
    have hlt := lt_length_of_isStart ((startsAreTheLinearSweep p n).mpr hstart)
    exact ⟨⟨by omega, by omega⟩, hstart⟩

theorem jumpTo_of_starts {s : State} {n : Nat} (h : Starts s.params n) : jumpTo n s = .next { s with pc := n } :=
  jumpTo_valid ((validTarget_iff_starts s.params n).mpr ⟨n, rfl, h⟩)

theorem jumpTo_of_not_starts {s : State} {t : Int} (h : ∀ n : Nat, Starts s.params n → (n : Int) ≠ t) :
    jumpTo t s = .next (s.trap .invalidTarget) := by
  refine jumpTo_invalid (Bool.eq_false_iff.mpr fun hvalid => ?_)
  obtain ⟨n, hn, hstart⟩ := (validTarget_iff_starts s.params t).mp hvalid
  exact h n hstart hn

/-- Settles O27: an index inside the table jumps to its entry, which is valid exactly when it is a start; any other traps. -/
theorem jumpThroughTable : Obligations.JumpThroughTable := by
  intro s off
  have hentry {t : Nat} (ht : s.params.jumpTable[off.toNat]? = some t) : exec (.jump off) s = jumpTo t s := by
    simp only [exec, execJump, ht]
  refine ⟨fun t ht hstart => ?_, fun t ht hnot => ?_, fun hout => ?_⟩
  · rw [hentry ht, jumpTo_of_starts hstart]
  · rw [hentry ht]
    refine jumpTo_of_not_starts fun n hstart hn => hnot ?_
    rwa [← Int.ofNat_inj.mp hn]
  · simp only [exec, execJump, List.getElem?_eq_none hout]
    rfl

/-- A branch whose condition says `p` (rule R106). -/
theorem branch_targets {c : Cond} {s : State} {r1 r2 : Reg} {off : Imm32} {p : Prop}
    (h : p ↔ condHolds c (s.reg r1) (s.reg r2) = true) :
    (∀ t : Nat, p → (t : Int) = s.pc + off.toInt → Starts s.params t →
        branch c r1 r2 off s = .next { s with pc := t }) ∧
      (p → (∀ t : Nat, Starts s.params t → (t : Int) ≠ s.pc + off.toInt) →
        branch c r1 r2 off s = .next { s with status := .trapped .invalidTarget }) ∧
      (¬ p → branch c r1 r2 off s = .next { s with pc := s.pc + s.len 6 }) := by
  rcases branch_cases c r1 r2 off s with ⟨hholds, e⟩ | ⟨hfails, e⟩
  · refine ⟨fun t _ ht hstart => ?_, fun _ hnot => ?_, fun hnp => absurd (h.mpr hholds) hnp⟩
    · rw [e, ← ht, jumpTo_of_starts hstart]
    · rw [e]
      exact jumpTo_of_not_starts hnot
  · have hnp : ¬ p := fun hp => by cases hfails.symm.trans (h.mp hp)
    exact ⟨fun t hp => absurd hp hnp, fun hp => absurd hp hnp, fun _ => e⟩

/-- Settles O28: the six conditions, read as numbers, decide which branch of `branch_targets` is taken. -/
theorem branchesTakeTheirTarget : Obligations.BranchesTakeTheirTarget := by
  rintro s r1 r2 off i c
    (⟨rfl, hc⟩ | ⟨rfl, hc⟩ | ⟨rfl, hc⟩ | ⟨rfl, hc⟩ | ⟨rfl, hc⟩ | ⟨rfl, hc⟩) <;>
    refine branch_targets (hc.trans ?_)
  · rw [condHolds, beq_iff_eq, ← BitVec.toNat_inj]
    rfl
  · rw [condHolds, bne_iff_ne, ← BitVec.toNat_ne_iff_ne]
    rfl
  all_goals exact decide_eq_true_iff.symm

end Sys2Proof.Machine
end

section
/-! PROOFS. Logic, comparison, conditional moves, minimum and maximum (43_logical.md, 44_comparison.md, 46_conditional_move.md,
47_min_max.md): all of them write a function of whole registers and the sign-extended immediate. -/

namespace Sys2Proof.Machine

/-! ## Logic (rules R180 to R186) -/

theorem simm_getLsbD (s : State) (imm : Imm32) {k : Nat} (hk : k < s.xlen) :
    (s.simm imm).getLsbD k = simmBit imm k := by
  rw [State.simm, BitVec.getLsbD_signExtend, BitVec.msb_eq_getLsbD_last, simmBit]
  by_cases h32 : k < 32
  · simp [hk, h32, show min k 31 = k by omega]
  · simp [hk, h32, show min k 31 = 31 by omega]

/-- An operation that works bit by bit on the whole of `src` and the immediate. -/
theorem writeReg_bitwise {s : State} {dest src : Reg} {imm : Imm32} {v : BitVec s.xlen} {f : Bool → Bool → Bool}
    (hv : ∀ k < s.xlen, v.getLsbD k = f ((s.reg src).getLsbD k) ((s.simm imm).getLsbD k)) :
    ∃ t, writeReg .regRegImm dest s v = .next t ∧ KeepsRest s t dest 6 ∧
      ∀ k, k < s.xlen → (t.reg dest).getLsbD k = f ((s.reg src).getLsbD k) (simmBit imm k) := by
  refine ⟨_, rfl, keepsRest_writeReg .regRegImm s dest v, fun k hk => ?_⟩
  rw [← simm_getLsbD s imm hk, ← hv k hk]
  exact congrArg (BitVec.getLsbD · k) (reg_setReg_self s dest v)

/-- Settles O44: each bit of the result is the function of the two bits at its place. -/
theorem logicalInstructions : Obligations.LogicalInstructions := by
  rintro s dest src imm i f (⟨rfl, hf⟩ | ⟨rfl, hf⟩ | ⟨rfl, hf⟩ | ⟨rfl, hf⟩ | ⟨rfl, hf⟩ | ⟨rfl, hf⟩) <;>
    refine writeReg_bitwise fun k hk => ?_ <;> rw [hf]
  · exact BitVec.getLsbD_and
  · exact BitVec.getLsbD_or
  · simp
  · simp [hk]
  · simp [hk]
  · have hxnor (x y : Bool) : (!(x ^^ y)) = (x == y) := by cases x <;> cases y <;> rfl
    show (~~~(s.reg src ^^^ s.simm imm)).getLsbD k = _
    rw [BitVec.getLsbD_not, BitVec.getLsbD_xor, decide_eq_true hk, Bool.true_and, hxnor]

/-! ## Comparison (rules R190 to R194) -/

theorem truthValue_toNat {n : Nat} (hn : 0 < n) {c : Bool} {p : Prop} [Decidable p] (h : c = true ↔ p) :
    (truthValue n c).toNat = if p then 1 else 0 := by
  have hone : 1 % 2 ^ n = 1 := Nat.mod_eq_of_lt (Nat.one_lt_two_pow hn.ne')
  by_cases hp : p
  · simp [truthValue, h.mpr hp, hp, hone]
  · simp [truthValue, Bool.eq_false_iff.mpr fun hc => hp (h.mp hc), hp]

/-- A comparison writes 1 where its condition holds and 0 elsewhere. -/
theorem writeTruthValue (f : Format) (s : State) (dest : Reg) {c : Bool} {p : Prop} [Decidable p] (h : c = true ↔ p) :
    ∃ t, writeReg f dest s (truthValue s.xlen c) = .next t ∧ KeepsRest s t dest (formatLength f) ∧
      t.uval dest = if p then 1 else 0 :=
  writeReg_uval (truthValue_toNat (by have := le_xlen_of_le_32 s le_rfl; omega) h)

theorem ltU_simm_iff (s : State) (r : Reg) (imm : Imm32) :
    condHolds .ltU (s.reg r) (s.simm imm) = true ↔ s.uval r < s.simmU imm := by
  rw [← simm_toNat]
  exact decide_eq_true_iff

theorem ltS_simm_iff (s : State) (r : Reg) (imm : Imm32) :
    condHolds .ltS (s.reg r) (s.simm imm) = true ↔ s.sval r < imm.toInt := by
  rw [← simm_toInt s]
  exact decide_eq_true_iff

theorem gtS_simm_iff (s : State) (r : Reg) (imm : Imm32) :
    condHolds .ltS (s.simm imm) (s.reg r) = true ↔ s.sval r > imm.toInt := by
  rw [← simm_toInt s]
  exact decide_eq_true_iff

/-- Settles O45: each writes the truth value of its condition. -/
theorem comparisons : Obligations.Comparisons := by
  intro s dest src imm unused
  exact ⟨writeTruthValue .regRegImm s dest (ltU_simm_iff s src imm),
    writeTruthValue .regRegImm s dest (ltS_simm_iff s src imm),
    writeTruthValue .regImmOffset s dest (ltU_simm_iff s dest imm),
    writeTruthValue .regImmOffset s dest (gtS_simm_iff s dest imm)⟩

/-! ## Conditional moves (rules R230 to R234) -/

theorem keepsRest_finish (f : Format) (s : State) (dest : Reg) :
    KeepsRest s (s.advance f) dest (formatLength f) where
  regs _ _ := rfl
  mem _ := rfl
  pc := rfl
  status := rfl
  params := rfl
  hostAnswers := rfl
  freeCount := rfl

/-- A conditional move writes the immediate or keeps every register. -/
theorem cmov_next (f : Format) (s : State) (dest : Reg) (value : Imm32) {c p q : Prop} [Decidable c] (hp : p → c)
    (hq : q → ¬ c) :
    ∃ t, (if c then writeReg f dest s (s.simm value) else finish f s) = .next t ∧ KeepsRest s t dest (formatLength f) ∧
      (p → t.uval dest = s.simmU value) ∧ (q → t.regs = s.regs) := by
  split
  case isTrue hc =>
    obtain ⟨t, hnext, hkeeps, hval⟩ := writeReg_uval (f := f) (dest := dest) (simm_toNat s value)
    exact ⟨t, hnext, hkeeps, fun _ => hval, fun h => absurd hc (hq h)⟩
  case isFalse hc => exact ⟨_, rfl, keepsRest_finish f s dest, fun h => absurd (hp h) hc, fun _ => rfl⟩

theorem uval_eq_zero_iff (s : State) (r : Reg) : s.uval r = 0 ↔ s.reg r = 0 := by
  rw [← BitVec.toNat_inj]
  simp [State.uval]

/-- Settles O51: the conditions are tests of the whole register for zero. -/
theorem conditionalMoves : Obligations.ConditionalMoves := by
  intro s dest src value unused
  have hzero (r : Reg) := uval_eq_zero_iff s r
  have hnot (r : Reg) : s.uval r ≠ 0 ↔ s.reg r ≠ 0 := (hzero r).not
  exact ⟨cmov_next .regRegImm s dest value (hzero src).mp (hnot src).mp,
    cmov_next .regRegImm s dest value (hnot src).mp fun h => not_not_intro ((hzero src).mp h),
    cmov_next .regImmOffset s dest value (hzero dest).mp (hnot dest).mp,
    cmov_next .regImmOffset s dest value (hnot dest).mp fun h => not_not_intro ((hzero dest).mp h)⟩

/-! ## Minimum and maximum (rules R240 to R244) -/

section
variable {n : Nat} (a b : BitVec n)

theorem maxS_toInt : (maxS a b).toInt = max a.toInt b.toInt := by
  unfold maxS
  split <;> omega

theorem maxU_toNat : (maxU a b).toNat = max a.toNat b.toNat := by
  unfold maxU
  split <;> omega

theorem minS_toInt : (minS a b).toInt = min a.toInt b.toInt := by
  unfold minS
  split <;> omega

theorem minU_toNat : (minU a b).toNat = min a.toNat b.toNat := by
  unfold minU
  split <;> omega

end

/-- Settles O52: which of the two values is written is decided by their readings as numbers. -/
theorem minimumAndMaximum : Obligations.MinimumAndMaximum := by
  intro s dest src imm
  refine ⟨writeReg_sval (f := .regRegImm) ?_, writeReg_uval (f := .regRegImm) ?_, writeReg_sval (f := .regRegImm) ?_,
    writeReg_uval (f := .regRegImm) ?_⟩
  · exact (maxS_toInt _ _).trans (congrArg _ (simm_toInt s imm))
  · exact (maxU_toNat _ _).trans (congrArg _ (simm_toNat s imm))
  · exact (minS_toInt _ _).trans (congrArg _ (simm_toInt s imm))
  · exact (minU_toNat _ _).trans (congrArg _ (simm_toNat s imm))

end Sys2Proof.Machine
end

section
/-! PROOFS. Shifts, rotates and bit manipulation (45_shift_rotate.md, 48_bit_manipulation.md): the computations as arithmetic on
numbers, for every width, and the instructions at 32 bits, at 64 and at `XLEN`. -/

namespace Sys2Proof.Machine

/-! ## Shifts (rules R200 to R213) -/

section
variable {W : Nat} (a : BitVec W) (n : Nat)

theorem shl_toNat : (shl a n).toNat = a.toNat * 2 ^ n % 2 ^ W := by
  rw [shl, BitVec.toNat_shiftLeft, Nat.shiftLeft_eq]

theorem shr_toNat : (shr a n).toNat = a.toNat / 2 ^ n := by
  rw [shr, BitVec.toNat_ushiftRight, Nat.shiftRight_eq_div_pow]

theorem sar_toInt : (sar a n).toInt = a.toInt / 2 ^ n := by
  rw [sar, BitVec.toInt_sshiftRight, Int.shiftRight_eq_div_pow]
  norm_cast

theorem toNat_eq_toInt_emod : a.toNat = (a.toInt % 2 ^ W).toNat := by
  conv_lhs => rw [← BitVec.ofInt_toInt (x := a), BitVec.toNat_ofInt]
  norm_cast

theorem sar_toNat : (sar a n).toNat = (a.toInt / 2 ^ n % 2 ^ W).toNat := by
  rw [toNat_eq_toInt_emod, sar_toInt]

end

section
variable (s : State) (W : Nat) (r : Reg) (n : Nat)

theorem shl_low_toNat : (shl (s.low W r) n).toNat = s.lowU W r * 2 ^ n % 2 ^ W := by
  rw [shl_toNat, low_toNat]

theorem shr_low_toNat : (shr (s.low W r) n).toNat = s.lowU W r / 2 ^ n := by
  rw [shr_toNat, low_toNat]

theorem sar_low_toNat : (sar (s.low W r) n).toNat = (s.lowS W r / 2 ^ n % 2 ^ W).toNat := by
  rw [sar_toNat, low_toInt]

theorem sar_low_toInt : (sar (s.low W r) n).toInt = s.lowS W r / 2 ^ n := by
  rw [sar_toInt, low_toInt]

end

/-- Settles O46: the three shifts of both widths, at the distance in the count register. -/
theorem shiftsByRegister : Obligations.ShiftsByRegister := by
  rintro s dest count _ _ rfl rfl
  refine ⟨writeRes32 .regReg s dest (shl_low_toNat s 32 dest _), writeRes32 .regReg s dest (shr_low_toNat s 32 dest _),
    writeRes32 .regReg s dest (sar_low_toNat s 32 dest _), fun hmode => ?_⟩
  rw [← lowU_64 hmode dest, ← lowS_64 hmode dest]
  exact ⟨writeRes64 .regReg hmode dest (shl_low_toNat s 64 dest _),
    writeRes64 .regReg hmode dest (shr_low_toNat s 64 dest _),
    writeRes64_signed .regReg hmode dest (sar_low_toInt s 64 dest _)⟩

/-- Where `alt` does not swap the operands an `alt` form does what stands behind the check. -/
theorem altForm_next {s : State} {k : Result} {P : State → Prop} (halt : s.params.altSwapsOperands = false)
    (h : ∃ t, k = .next t ∧ P t) : ∃ t, altForm s k = .next t ∧ P t := by
  rwa [altForm_not_swapped halt]

/-- The same behind the check of the mode. -/
theorem in64_altForm {s : State} (halt : s.params.altSwapsOperands = false) (k : Result) :
    in64 s (altForm s k) = in64 s k := by
  rw [altForm_not_swapped halt]

/-- Settles O47: the same shifts, at the distance in the immediate. -/
theorem shiftsByImmediate : Obligations.ShiftsByImmediate := by
  rintro s reg shift unused _ _ rfl rfl halt
  refine ⟨altForm_next halt (writeRes32 .regImmOffset s reg (shl_low_toNat s 32 reg _)),
    altForm_next halt (writeRes32 .regImmOffset s reg (shr_low_toNat s 32 reg _)),
    altForm_next halt (writeRes32 .regImmOffset s reg (sar_low_toNat s 32 reg _)), fun hmode => ?_⟩
  rw [← lowU_64 hmode reg, ← lowS_64 hmode reg]
  exact ⟨next_of_eq (in64_altForm halt _) (writeRes64 .regImmOffset hmode reg (shl_low_toNat s 64 reg _)),
    next_of_eq (in64_altForm halt _) (writeRes64 .regImmOffset hmode reg (shr_low_toNat s 64 reg _)),
    next_of_eq (in64_altForm halt _) (writeRes64_signed .regImmOffset hmode reg (sar_low_toInt s 64 reg _))⟩

/-! ## Rotates (rules R214 to R222) -/

/-- The bits that leave at the top and those that stay do not meet, so their union is their sum. -/
theorem shl_or_shr_toNat {W : Nat} (a : BitVec W) {n : Nat} (hn : n ≤ W) :
    (shl a n ||| shr a (W - n)).toNat = a.toNat * 2 ^ n % 2 ^ W + a.toNat / 2 ^ (W - n) := by
  have hW : 2 ^ W = 2 ^ (W - n) * 2 ^ n := by rw [← Nat.pow_add, Nat.sub_add_cancel hn]
  have hlow : a.toNat / 2 ^ (W - n) < 2 ^ n := Nat.div_lt_of_lt_mul (hW ▸ a.isLt)
  rw [BitVec.toNat_or, shl_toNat, shr_toNat, hW, Nat.mul_mod_mul_right, ← Nat.shiftLeft_eq,
    Nat.shiftLeft_add_eq_or_of_lt hlow]

theorem rotl_eq {W : Nat} (a : BitVec W) (n : Nat) : rotl a n = shl a n ||| shr a (W - n) := by
  unfold rotl
  split
  case isTrue h =>
    subst h
    refine BitVec.eq_of_toNat_eq ?_
    rw [shl_or_shr_toNat a (Nat.zero_le W)]
    simp [a.isLt]
  case isFalse => rfl

theorem rotl_toNat {W : Nat} (a : BitVec W) {n : Nat} (hn : n ≤ W) :
    (rotl a n).toNat = a.toNat * 2 ^ n % 2 ^ W + a.toNat / 2 ^ (W - n) := by
  rw [rotl_eq, shl_or_shr_toNat a hn]

/-- A rotation to the right by `n` bits is one to the left by the rest of the ring. -/
theorem rotr_toNat {W : Nat} (a : BitVec W) {n : Nat} (hn : n ≤ W) :
    (rotr a n).toNat = a.toNat / 2 ^ n + a.toNat * 2 ^ (W - n) % 2 ^ W := by
  have hleft := shl_or_shr_toNat a (Nat.sub_le W n)
  rw [Nat.sub_sub_self hn] at hleft
  unfold rotr
  split
  case isTrue h =>
    subst h
    simp
  case isFalse => rw [BitVec.or_comm, hleft, Nat.add_comm]

/-- Settles O48: both rotates on 32 bits, at the three sources of the distance. -/
theorem rotates32 : Obligations.Rotates32 := by
  rintro s dest count shift unused _ _ rfl rfl
  have hle (k : Nat) : k % 32 ≤ 32 := (Nat.mod_lt k (by decide)).le
  have hright (k : Nat) : (rotr (s.low 32 dest) (k % 32)).toNat =
      s.lowU 32 dest / 2 ^ (k % 32) + s.lowU 32 dest * 2 ^ (32 - k % 32) % 2 ^ 32 := by
    rw [rotr_toNat _ (hle k), low_toNat]
  refine ⟨writeRes32 .regReg s dest ?_, writeRes32 .regReg s dest (hright _),
    writeRes32 .regImmOffset s dest (hright _), fun halt =>
    altForm_next halt (writeRes32 .regImmOffset s dest (hright _))⟩
  exact (rotl_toNat _ (hle _)).trans (by rw [low_toNat]; rfl)

/-- Settles O49: the same on 64 bits, behind the check of the mode. -/
theorem rotates64 : Obligations.Rotates64 := by
  rintro s dest count shift unused _ _ rfl rfl hmode
  have hle (k : Nat) : k % 64 ≤ 64 := (Nat.mod_lt k (by decide)).le
  have hright (k : Nat) : (rotr (s.low 64 dest) (k % 64)).toNat =
      s.uval dest / 2 ^ (k % 64) + s.uval dest * 2 ^ (64 - k % 64) % 2 ^ 64 := by
    rw [rotr_toNat _ (hle k), low64_toNat hmode]
  refine ⟨writeRes64 .regReg hmode dest ?_, writeRes64 .regReg hmode dest (hright _),
    writeRes64 .regImmOffset hmode dest (hright _), fun halt =>
    next_of_eq (in64_altForm halt _) (writeRes64 .regImmOffset hmode dest (hright _))⟩
  exact (rotl_toNat _ (hle _)).trans (by rw [low64_toNat hmode]; rfl)

/-! ## The count of leading zeros (rules R251, R252) -/

theorem leadingZerosBelow_le {W : Nat} (a : BitVec W) (k : Nat) : leadingZerosBelow a k ≤ k := by
  induction k with
  | zero => rfl
  | succ k ih =>
    rw [leadingZerosBelow]
    split <;> omega

/-- The low `k` bits, as a number, lie between the two powers of two that the count of their leading zeros names. -/
theorem leadingZerosBelow_bounds {W : Nat} (a : BitVec W) (k : Nat) :
    a.toNat % 2 ^ k < 2 ^ (k - leadingZerosBelow a k) ∧
      (leadingZerosBelow a k < k → 2 ^ (k - leadingZerosBelow a k - 1) ≤ a.toNat % 2 ^ k) := by
  induction k with
  | zero => simp [Nat.mod_one]
  | succ k ih =>
    have hlt : a.toNat % 2 ^ k < 2 ^ k := Nat.mod_lt _ (by positivity)
    have hsplit : a.toNat % 2 ^ (k + 1) = a.toNat % 2 ^ k + 2 ^ k * (a.getLsbD k).toNat := by
      rw [Nat.mod_pow_succ, BitVec.getLsbD, Nat.toNat_testBit]
    rw [leadingZerosBelow, hsplit]
    cases a.getLsbD k with
    | true =>
      simp only [if_true, Nat.sub_zero, Nat.add_sub_cancel, Bool.toNat_true, Nat.mul_one, Nat.pow_succ]
      omega
    | false =>
      simpa [Nat.add_sub_add_right] using ih

/-- What both widths write. -/
theorem countBits_clz_next {W : Nat} (hW : W ≤ 64) (s : State) (reg : Reg) :
    ∃ t, countBits W clz reg s = .next t ∧ KeepsRest s t reg 2 ∧ t.uval reg ≤ W ∧
      s.lowU W reg < 2 ^ (W - t.uval reg) ∧ (t.uval reg < W → 2 ^ (W - t.uval reg - 1) ≤ s.lowU W reg) := by
  have hle := leadingZerosBelow_le (s.low W reg) W
  obtain ⟨t, hnext, hkeeps, hval⟩ := countBits_next (f := clz) (r := reg) (hle.trans hW)
  have hbounds := leadingZerosBelow_bounds (s.low W reg) W
  rw [Nat.mod_eq_of_lt (s.low W reg).isLt, low_toNat] at hbounds
  refine ⟨t, hnext, hkeeps, ?_⟩
  rw [hval]
  exact ⟨hle, hbounds⟩

/-- Settles O53: the bounds of the count over all `W` bits. -/
theorem leadingZeroCounts : Obligations.LeadingZeroCounts := by
  rintro s reg W i (⟨rfl, rfl⟩ | ⟨rfl, rfl, hmode⟩)
  · exact countBits_clz_next (by decide) s reg
  · exact in64_next hmode (countBits_clz_next le_rfl s reg)

/-! ## The count of ones and the byte swap (rules R255, R256) -/

theorem onesBelow_eq {W : Nat} (a : BitVec W) (k : Nat) :
    onesBelow a k = ((List.range k).filter fun i => a.getLsbD i).length := by
  induction k with
  | zero => rfl
  | succ k ih =>
    rw [onesBelow, ih, List.range_succ, List.filter_append, List.length_append]
    cases h : a.getLsbD k <;> simp [h]

theorem onesBelow_le {W : Nat} (a : BitVec W) (k : Nat) : onesBelow a k ≤ k := by
  rw [onesBelow_eq]
  exact (List.length_filter_le _ _).trans List.length_range.le

/-- Bit `8 * i + j` of the value of bytes is bit `j` of byte `i`. -/
theorem bytesValue_testBit (bs : List Byte) {i j : Nat} (hi : i < bs.length) (hj : j < 8) :
    (bytesValue bs).testBit (8 * i + j) = bs[i].getLsbD j := by
  induction bs generalizing i with
  | nil => cases hi
  | cons b bs ih =>
    rw [bytesValue, Nat.add_comm b.toNat, show (256 : Nat) = 2 ^ 8 by rfl, Nat.testBit_two_pow_mul_add _ b.isLt]
    cases i with
    | zero => simp [hj, BitVec.getLsbD]
    | succ i =>
      rw [if_neg (by omega), show 8 * (i + 1) + j - 8 = 8 * i + j by omega, ih (Nat.lt_of_succ_lt_succ hi)]
      rfl

theorem valueBytes_getElem_getLsbD {w n i j : Nat} (v : BitVec w) (hi : i < (valueBytes v n).length) (hj : j < 8) :
    (valueBytes v n)[i].getLsbD j = v.getLsbD (8 * i + j) := by
  simp [valueBytes, hj]

/-- Byte `i` of the reversed value is byte `W / 8 - 1 - i` of the value. -/
theorem reverseBytes_getLsbD {W i j : Nat} (a : BitVec W) (hi : i < W / 8) (hj : j < 8) :
    (reverseBytes a).getLsbD (8 * i + j) = a.getLsbD (8 * (W / 8 - 1 - i) + j) := by
  have hlen : (valueBytes a (W / 8)).reverse.length = W / 8 := by simp
  have hbit : 8 * i + j < W := by omega
  rw [reverseBytes, BitVec.getLsbD_ofNat, decide_eq_true hbit, Bool.true_and,
    bytesValue_testBit _ (hlen.symm ▸ hi) hj, List.getElem_reverse, valueBytes_getElem_getLsbD _ _ hj,
    valueBytes_length]

/-- Settles O55: the count as the length of the list of places that hold a 1, and the swap bit by bit. -/
theorem countOnesAndSwapBytes : Obligations.CountOnesAndSwapBytes := by
  intro s reg
  have hxlen : s.xlen ≤ 64 := width_le_64 _
  have hlow : s.low s.xlen reg = s.reg reg := BitVec.setWidth_eq _
  constructor
  · obtain ⟨t, hnext, hkeeps, hval⟩ := countBits_next (f := popCount) (s := s) (r := reg)
      ((onesBelow_le (s.low s.xlen reg) s.xlen).trans hxlen)
    exact ⟨t, hnext, hkeeps, by rw [hval, popCount, onesBelow_eq, hlow]⟩
  · refine ⟨_, rfl, keepsRest_writeReg .reg s reg _, fun i j hi hj => ?_⟩
    rw [← reverseBytes_getLsbD _ hi hj]
    exact congrArg (BitVec.getLsbD · (8 * i + j)) (reg_setReg_self s reg _)

end Sys2Proof.Machine
end
